-- ==== Sys2Proof/Word.lean ====
section
/-!
DEFINITION. The word types of the block and the type of its reals.

Registers and data words are 64 bits, command words 32 bits (spec/00_scope.md R13).  The spec keeps two kinds of
value apart: bit patterns (`u64`) and reals (binary64 data), with `bits64` and `real` between them (R14, R15).
So a pattern is a `Word` and a real is an `F64`.
-/

namespace Sys2Proof

/-- A 64-bit register or data word (R13). -/
abbrev Word := BitVec 64

/-- A 32-bit command word (R13, R140). -/
abbrev CmdWord := BitVec 32

/-- A real of the spec: an IEEE 754 binary64 datum (R14, R240).

`fin s e f` is the finite number with sign `s`, biased exponent `e` (0 to 2046) and fraction `f`, so every term
of the type is a datum and every datum but the NaNs is one term.  There is ONE `nan`: R242 gives a NaN result no
sign and no payload ("a proof may rely only on the value being a NaN"), so a real has none, and a pattern for a
NaN appears only where the spec turns a real into bits (`bits64` in Machine/Real.lean), as a free value. -/
inductive F64 where
  | nan
  | inf (neg : Bool)
  | fin (neg : Bool) (expo : Fin 2047) (frac : BitVec 52)
  deriving DecidableEq, Repr

end Sys2Proof
end

