-- ==== Sys2Proof/Syntax.lean ====
section
/-!
DEFINITION. The commands of the block, one constructor per row of spec/opcode_table.json (spec/30_encoding.md R143),
and the two channels they name.
-/

namespace Sys2Proof

/-- A channel engine (R60, R715): `L` is channel 0, `R` is channel 1. -/
inductive Chan where
  | L
  | R
  deriving DecidableEq, Repr

/-- The channel a CH field names; R144 admits 0 and 1 only. -/
def Chan.ofCh (ch : BitVec 8) : Option Chan :=
  if ch = 0 then some .L else if ch = 1 then some .R else none

/-- A command of the command port with its operands (R141-R143).  A command that ignores the data word carries
none (R142). -/
inductive Instr where
  /-- NOP (R201). -/
  | nop
  /-- WRREG: write register `idx` of bank `bank` (R202). -/
  | wrreg (bank : BitVec 2) (idx : BitVec 6) (d : Word)
  /-- RDREG: read register `idx` of bank `bank` (R203). -/
  | rdreg (bank : BitVec 2) (idx : BitVec 6)
  /-- SETSR: set the sample rate (R205). -/
  | setsr (d : Word)
  /-- RESET: clear channel state (R206). -/
  | reset
  /-- BLOCK: latch parameters (R207). -/
  | block
  /-- SMP: process one sample of the channel in the CH field (R209). -/
  | smp (ch : BitVec 8) (d : Word)
  deriving DecidableEq, Repr

end Sys2Proof
end

