-- ==== Sys2Proof/WellFormed.lean ====
section
/-!
DEFINITION. Which instructions a command word can carry.  Every BANK, IDX and data word is admitted by the types
(R145: a word naming a reserved register is still a legal word); the CH field of SMP is checked (R143, R144).
-/

namespace Sys2Proof

/-- SMP takes CH = 0 or 1: CH[7:1] must be 0 (R144). -/
def Instr.chanLegal : Instr → Bool
  | .nop => true
  | .wrreg _ _ _ => true
  | .rdreg _ _ => true
  | .setsr _ => true
  | .reset => true
  | .block => true
  | .smp ch _ => decide (ch.toNat < 2)

/-- The well-formed instructions: those the decoder can answer. -/
abbrev Instr.WellFormed (i : Instr) : Prop := i.chanLegal = true

end Sys2Proof
end

