-- ==== Sys2Proof/Decode.lean ====
section
/-!
DEFINITION. Decoding and encoding of command words (spec/30_encoding.md R140-R146), and the byte order of a bus
adapter (spec/20_memory.md R103).
-/

namespace Sys2Proof

/-! ### Fields of the command word (R141) -/

def fieldOpc (cw : CmdWord) : BitVec 8 := cw.extractLsb' 24 8
def fieldBank (cw : CmdWord) : BitVec 2 := cw.extractLsb' 22 2
def fieldIdx (cw : CmdWord) : BitVec 6 := cw.extractLsb' 16 6
def fieldCh (cw : CmdWord) : BitVec 8 := cw.extractLsb' 8 8
def fieldRsv (cw : CmdWord) : BitVec 8 := cw.extractLsb' 0 8

/-- What the decoder answers: one of the seven commands with its fields, or BADCMD (R146). -/
inductive Decoded where
  | cmd (i : Instr)
  | badCmd
  deriving DecidableEq, Repr

/-- The decoder of R146: total on the 2^32 command words, with any data word. -/
def decode (cw : CmdWord) (d : Word) : Decoded :=
  if fieldRsv cw ≠ 0 then .badCmd
  else if fieldOpc cw = 0x01 then
    if fieldCh cw ≠ 0 then .badCmd else .cmd (.wrreg (fieldBank cw) (fieldIdx cw) d)
  else if fieldOpc cw = 0x02 then
    if fieldCh cw ≠ 0 then .badCmd else .cmd (.rdreg (fieldBank cw) (fieldIdx cw))
  else if fieldOpc cw = 0x06 then
    if fieldBank cw ≠ 0 ∨ fieldIdx cw ≠ 0 ∨ 1 < (fieldCh cw).toNat then .badCmd else .cmd (.smp (fieldCh cw) d)
  else if fieldBank cw ≠ 0 ∨ fieldIdx cw ≠ 0 ∨ fieldCh cw ≠ 0 then .badCmd
  else if fieldOpc cw = 0x00 then .cmd .nop
  else if fieldOpc cw = 0x03 then .cmd (.setsr d)
  else if fieldOpc cw = 0x04 then .cmd .reset
  else if fieldOpc cw = 0x05 then .cmd .block
  else .badCmd

/-! ### The encoder, from the same table -/

/-- A command word from its fields, RSV zero (R141). -/
def packWord (opc : BitVec 8) (bank : BitVec 2) (idx : BitVec 6) (ch : BitVec 8) : CmdWord :=
  opc ++ (bank ++ (idx ++ (ch ++ 0#8)))

/-- The command word of an instruction (R143). -/
def encodeWord : Instr → CmdWord
  | .nop => packWord 0x00 0 0 0
  | .wrreg b i _ => packWord 0x01 b i 0
  | .rdreg b i => packWord 0x02 b i 0
  | .setsr _ => packWord 0x03 0 0 0
  | .reset => packWord 0x04 0 0 0
  | .block => packWord 0x05 0 0 0
  | .smp c _ => packWord 0x06 0 0 c

/-- The data word of an instruction; the assembler emits 0 where the command takes none (R148). -/
def encodeData : Instr → Word
  | .nop => 0
  | .wrreg _ _ d => d
  | .rdreg _ _ => 0
  | .setsr d => d
  | .reset => 0
  | .block => 0
  | .smp _ d => d

/-- The two words of a command (R140). -/
def encode (i : Instr) : CmdWord × Word := (encodeWord i, encodeData i)

/-! ### The opcode map as a table (R143) -/

/-- One row: a command word is this row's when `cw AND mask = pattern`. -/
structure OpcodeRow where
  mnemonic : String
  pattern : CmdWord
  mask : CmdWord
  deriving DecidableEq, Repr

/-- The complete opcode map of R143. -/
def opcodeTable : List OpcodeRow :=
  [⟨"NOP", 0x00000000, 0xFFFFFFFF⟩,
   ⟨"WRREG", 0x01000000, 0xFF00FFFF⟩,
   ⟨"RDREG", 0x02000000, 0xFF00FFFF⟩,
   ⟨"SETSR", 0x03000000, 0xFFFFFFFF⟩,
   ⟨"RESET", 0x04000000, 0xFFFFFFFF⟩,
   ⟨"BLOCK", 0x05000000, 0xFFFFFFFF⟩,
   ⟨"SMP", 0x06000000, 0xFFFFFEFF⟩]

/-- Whether a command word matches a row: the opcode and every must-be-zero field. -/
def OpcodeRow.hits (r : OpcodeRow) (cw : CmdWord) : Bool := cw &&& r.mask == r.pattern

/-- The mnemonic of a command. -/
def Instr.mnemonic : Instr → String
  | .nop => "NOP"
  | .wrreg _ _ _ => "WRREG"
  | .rdreg _ _ => "RDREG"
  | .setsr _ => "SETSR"
  | .reset => "RESET"
  | .block => "BLOCK"
  | .smp _ _ => "SMP"

/-! ### A byte-addressed bus adapter (R103): little-endian, byte 0 holds bits [7:0] -/

/-- The bytes of a word, the lowest first. -/
def bytesLE : Nat → Nat → List (BitVec 8)
  | 0, _ => []
  | n + 1, x => BitVec.ofNat 8 x :: bytesLE n (x / 256)

/-- The number that bytes, the lowest first, stand for. -/
def ofBytesLE : List (BitVec 8) → Nat
  | [] => 0
  | b :: bs => b.toNat + 256 * ofBytesLE bs

/-- The four bytes that carry a command word. -/
def cmdWordBytes (cw : CmdWord) : List (BitVec 8) := bytesLE 4 cw.toNat

/-- The eight bytes that carry a data word. -/
def dataWordBytes (d : Word) : List (BitVec 8) := bytesLE 8 d.toNat

/-- Decoding from an adapter's bytes: four of the command word and eight of the data word.  Another number of bytes
is a torn transfer, which R104 leaves outside the block: no command is presented. -/
def decodeBytes (cwBytes dBytes : List (BitVec 8)) : Option Decoded :=
  if cwBytes.length = 4 ∧ dBytes.length = 8 then
    some (decode (BitVec.ofNat 32 (ofBytesLE cwBytes)) (BitVec.ofNat 64 (ofBytesLE dBytes)))
  else none

/-- The host's question: the instruction read from `nbits` bits `w`.  The command word is bits [31:0]; the data
word is the 64 bits above it, so a row of 32 bits has a data word of zeros. -/
def decodeTableWord (nbits w : Nat) : Option Instr :=
  match decode (BitVec.ofNat 32 (w % 2 ^ nbits)) (BitVec.ofNat 64 (w % 2 ^ nbits / 2 ^ 32)) with
  | .cmd i => some i
  | .badCmd => none

end Sys2Proof
end

