-- ==== Sys2Proof/Machine/Real.lean ====
section
/-!
DEFINITION. The block's floating-point arithmetic (spec/00_scope.md R14, R15, R17, R18; spec/41_primitives.md
R240-R246): binary64 with one rounding to nearest, ties to even, per operation.

Every finite datum is a whole number of UNITS of 2^-1074.  An operation computes its exact result as a quotient
`p / q` of naturals in units, and `F64.round` narrows it once.
-/

namespace Sys2Proof
namespace F64

/-- +0.0 and -0.0. -/
def zero (neg : Bool) : F64 := .fin neg 0 0

/-- The magnitude of a finite datum, in units of 2^-1074. -/
def units (expo : Fin 2047) (frac : BitVec 52) : Nat :=
  if expo.val = 0 then frac.toNat else (2 ^ 52 + frac.toNat) * 2 ^ (expo.val - 1)

/-- The datum whose exponent and fraction fields, read as one number, are `mag`; past the largest finite number
it is an infinity (the IEEE overflow of round-to-nearest). -/
def ofMag (neg : Bool) (mag : Nat) : F64 :=
  if h : mag / 2 ^ 52 < 2047 then .fin neg ⟨mag / 2 ^ 52, h⟩ (BitVec.ofNat 52 mag) else .inf neg

/-- How many low bits of a magnitude of `p / q` units do not fit a 53-bit significand. -/
def excess (p q : Nat) : Nat :=
  if p / q < 2 ^ 53 then 0 else Nat.log2 (p / q) - 52

/-- `p / d` rounded to the nearest whole number, ties to even. -/
def nearestEven (p d : Nat) : Nat :=
  if d < 2 * (p % d) ∨ (2 * (p % d) = d ∧ p / d % 2 = 1) then p / d + 1 else p / d

/-- The ONE rounding of the block (R14, R241): the magnitude `p / q` units rounded to nearest, ties to even, with
gradual underflow (R243) and overflow to an infinity.  A magnitude of `n * 2^k` units with `n < 2^53` has the
fields `k * 2^52 + n`, a carry out of the significand included. -/
def round (neg : Bool) (p q : Nat) : F64 :=
  ofMag neg (excess p q * 2 ^ 52 + nearestEven p (q * 2 ^ excess p q))

/-- The signed number of units of a finite datum. -/
def signed (neg : Bool) (u : Nat) : Int := if neg then -(u : Int) else u

def isNaN : F64 → Bool
  | .nan => true
  | _ => false

def isFinite : F64 → Bool
  | .fin _ _ _ => true
  | _ => false

def isInf : F64 → Bool
  | .inf _ => true
  | _ => false

/-- Zero or subnormal exponent field with a non-zero fraction: `0 < |x| < 2^-1022` (R243). -/
def isSubnormal : F64 → Bool
  | .fin _ e f => e.val == 0 && f.toNat != 0
  | _ => false

/-- Sign change.  A literal such as `-2.0` and the written `-e` are this (exact, no rounding). -/
def neg : F64 → F64
  | .nan => .nan
  | .inf s => .inf (!s)
  | .fin s e f => .fin (!s) e f

/-- `abs(x)` clears the sign bit (R17). -/
def abs : F64 → F64
  | .nan => .nan
  | .inf _ => .inf false
  | .fin _ e f => .fin false e f

/-- The sum of two finite numbers of units; an exact zero is +0.0 unless both operands are negative. -/
def addUnits (s : Bool) (u : Nat) (t : Bool) (v : Nat) : F64 :=
  let n := signed s u + signed t v
  if n = 0 then zero (s && t) else round (n < 0) n.natAbs 1

/-- IEEE addition (R14, R242). -/
def add : F64 → F64 → F64
  | .nan, _ => .nan
  | .inf _, .nan => .nan
  | .inf s, .inf t => if s = t then .inf s else .nan
  | .inf s, .fin _ _ _ => .inf s
  | .fin _ _ _, .nan => .nan
  | .fin _ _ _, .inf t => .inf t
  | .fin s e f, .fin t e' f' => addUnits s (units e f) t (units e' f')

/-- IEEE subtraction. -/
def sub (a b : F64) : F64 := add a (neg b)

/-- IEEE multiplication; `0 * inf` is NaN. -/
def mul : F64 → F64 → F64
  | .nan, _ => .nan
  | .inf _, .nan => .nan
  | .inf s, .inf t => .inf (s ^^ t)
  | .inf s, .fin t e f => if units e f = 0 then .nan else .inf (s ^^ t)
  | .fin _ _ _, .nan => .nan
  | .fin s e f, .inf t => if units e f = 0 then .nan else .inf (s ^^ t)
  | .fin s e f, .fin t e' f' => round (s ^^ t) (units e f * units e' f') (2 ^ 1074)

/-- IEEE division (R245): `x / 0` is a signed infinity for `x ≠ 0`, and `0 / 0` is NaN. -/
def div : F64 → F64 → F64
  | .nan, _ => .nan
  | .inf _, .nan => .nan
  | .inf _, .inf _ => .nan
  | .inf s, .fin t _ _ => .inf (s ^^ t)
  | .fin _ _ _, .nan => .nan
  | .fin s _ _, .inf t => zero (s ^^ t)
  | .fin s e f, .fin t e' f' =>
    if units e' f' = 0 then (if units e f = 0 then .nan else .inf (s ^^ t))
    else round (s ^^ t) (units e f * 2 ^ 1074) (units e' f')

/-- The whole square root of `n` when it is below `2^k`, one bit at a time. -/
def isqrt (n : Nat) : Nat → Nat → Nat
  | 0, r => r
  | k + 1, r => isqrt n k (if (r + 2 ^ k) * (r + 2 ^ k) ≤ n then r + 2 ^ k else r)

/-- The square root of `m * 2^k` units: with the exponent made even, `r` is the whole root of the significand
scaled by 2^128, and a last bit says whether it is exact, so that the one rounding is right. -/
def sqrtUnits (m k : Nat) : F64 :=
  let n := (if k % 2 = 0 then m else 2 * m) * 2 ^ 128
  let r := isqrt n 92 0
  round false ((2 * r + if r * r = n then 0 else 1) * 2 ^ (k / 2 + 472)) 1

/-- IEEE square root: NaN below zero, and `sqrt(-0.0) = -0.0`. -/
def sqrt : F64 → F64
  | .nan => .nan
  | .inf s => if s then .nan else .inf false
  | .fin s e f =>
    if units e f = 0 then .fin s e f
    else if s then .nan
    else if e.val = 0 then sqrtUnits f.toNat 0 else sqrtUnits (2 ^ 52 + f.toNat) (e.val - 1)

/-- Where a datum stands in the order of R17's comparisons; a NaN stands nowhere. -/
def rank : F64 → Option Int
  | .nan => none
  | .inf s => some (signed s (2 ^ 2098))
  | .fin s e f => some (signed s (units e f))

/-- `a < b` (R17): false if either is NaN. -/
def lt (a b : F64) : Bool :=
  match rank a, rank b with
  | some x, some y => decide (x < y)
  | _, _ => false

/-- `a <= b` (R17). -/
def le (a b : F64) : Bool :=
  match rank a, rank b with
  | some x, some y => decide (x ≤ y)
  | _, _ => false

/-- `a == b` (R17): `+0 == -0`, and a NaN equals nothing. -/
def feq (a b : F64) : Bool :=
  match rank a, rank b with
  | some x, some y => decide (x = y)
  | _, _ => false

/-- `min(a, b)` is `(b < a) ? b : a` (R17). -/
def min (a b : F64) : F64 := if lt b a then b else a

/-- `max(a, b)` is `(b > a) ? b : a` (R17). -/
def max (a b : F64) : F64 := if lt a b then b else a

/-- `clamp(x, lo, hi)` is `min(max(x, lo), hi)`, so `hi` wins when `lo > hi` (R17). -/
def clamp (x lo hi : F64) : F64 := min (max x lo) hi

/-- `real(n)` of an integer, rounded once; exact below 2^53 (R246). -/
def ofInt (n : Int) : F64 := round (n < 0) (n.natAbs * 2 ^ 1074) 1

/-- `real(n)` of a natural. -/
def ofNat (n : Nat) : F64 := round false (n * 2 ^ 1074) 1

/-- The decimal literal `m / 10^k`: the binary64 value nearest to it. -/
def dec (m k : Nat) : F64 := round false (m * 2 ^ 1074) (10 ^ k)

/-- `sign(x)` (R17): +1.0, -1.0 or 0.0, and 0.0 for a NaN. -/
def sign (x : F64) : F64 :=
  if lt (zero false) x then ofNat 1 else if lt x (zero false) then neg (ofNat 1) else zero false

/-- `int(floor(x))` of a finite real (R17, R246). -/
def floorInt : F64 → Option Int
  | .fin s e f => some (signed s (units e f) / (2 ^ 1074 : Nat))
  | _ => none

/-- `int(ceil(x))` of a finite real (R246). -/
def ceilInt : F64 → Option Int
  | .fin s e f => some (-(-(signed s (units e f)) / (2 ^ 1074 : Nat)))
  | _ => none

/-- `frexp(x)` (R18): exact for a finite non-zero `x`, which is `m * 2^e` with `0.5 <= |m| < 1`.  The spec defines
it for no other `x`, and the block applies it to no other. -/
def frexp : F64 → F64 × Int
  | .fin s e f =>
    (round s (units e f * 2 ^ 1074) (2 ^ (Nat.log2 (units e f) + 1)), (Nat.log2 (units e f) + 1 : Int) - 1074)
  | x => (x, 0)

/-- `fmod(a, b)` (R360): the exact remainder with the sign of `a`, as C's `fmod`. -/
def fmod : F64 → F64 → F64
  | .nan, _ => .nan
  | .inf _, _ => .nan
  | .fin _ _ _, .nan => .nan
  | .fin s e f, .inf _ => .fin s e f
  | .fin s e f, .fin _ e' f' =>
    if units e' f' = 0 then .nan else round s (units e f % units e' f') 1

end F64

/-- `real(u)` (R15, R49): bit 63 the sign, bits [62:52] the biased exponent, bits [51:0] the fraction. -/
def real (u : Word) : F64 :=
  if h : (u.extractLsb' 52 11).toNat < 2047 then .fin u.msb ⟨(u.extractLsb' 52 11).toNat, h⟩ (u.extractLsb' 0 52)
  else if u.extractLsb' 0 52 = 0 then .inf u.msb
  else .nan

/-- Whether a pattern encodes a NaN. -/
def isNaNBits (u : Word) : Bool := (real u).isNaN

/-- The pattern of a NaN: `free` where it is a NaN encoding.  As `free` runs over all words this is exactly the
set of NaN encodings, which is what R242 admits. -/
def nanPattern (free : Word) : Word := if isNaNBits free then free else 0x7FF8000000000000

/-- `bits64(r)` (R15), the inverse of `real`; `free` settles the pattern of a NaN (R242). -/
def bits64 (free : Word) : F64 → Word
  | .nan => nanPattern free
  | .inf s => BitVec.ofBool s ++ (2047#11 ++ 0#52)
  | .fin s e f => BitVec.ofBool s ++ (BitVec.ofNat 11 e.val ++ f)

end Sys2Proof
end

