-- ==== Sys2Proof/Machine/Libm.lean ====
section
/-!
DEFINITION. The default instance of the parameter LIBM (spec/00_scope.md R18): sin, cos, cosh, exp, ln, log10 and
pow, correctly rounded, with the special operands IEEE 754 recommends.

Each function is computed as an integer scaled by `2^prec`, with an error far below `2^-300`, and narrowed once by
`Libm.narrow`.  UNVERIFIED (notes/assumptions/5.md): that no argument brings the exact result within 2^-256 of a
rounding boundary without being on it, which is what makes the narrowing the correct rounding.
-/

namespace Sys2Proof
namespace Libm

/-- Fraction bits of the fixed-point numbers of this file. -/
def prec : Nat := 384

/-- 1.0 as a fixed-point number. -/
def one : Nat := 2 ^ 384

/-- Fraction bits of `halfPi`: enough to reduce the largest binary64 argument. -/
def piPrec : Nat := 1650

/-- `floor(pi/2 * 2^1650)`. -/
def halfPi : Nat :=
  0x6487ed5110b4611a62633145c06e0e68948127044533e63a0105df531d89cd9128a5043cc71a026ef7ca8cd9e69d218d98158536f92f8a1ba7f09ab6b6a8e122f242dabb312f3f637a262174d31bf6b585ffae5b7a035bf6f71c35fdad44cfd2d74f9208be258ff324943328f6722d9ee1003e5c50b1df82cc6d241b0e2ae9cd348b1fd47e9267afc1b2ae91ee51d6cb0e3179ab1042a95dcf6a9483b84b4b36b3861aa7255e4c0278ba3604650c10be19482f23171b671df1cf3b960c074301cd93c1d17603d147dae2aef837a62

/-- `floor(ln 2 * 2^384)`. -/
def ln2 : Nat := 0xb17217f7d1cf79abc9e3b39803f2f6af40f343267298b62d8a0d175b8baafa2be7b876206debac98559552fb4afa1b10

/-- `floor(ln 10 * 2^384)`. -/
def ln10 : Nat := 0x24d763776aaa2b05ba95b58ae0b4c28a38a3fb3e76977e43a0f187a0807c0b5ca58bc0b5ec6a0417331c32f00b17c35a0

/-- The magnitude `n * 2^e`, rounded to binary64.  The approximation is first narrowed to 257 bits, so that a value
within the error of an exact result or of a tie becomes that result or tie. -/
def narrow (neg : Bool) (n : Nat) (e : Int) : F64 :=
  let cut := Nat.log2 n - 256
  let m := if cut = 0 then n else (n + 2 ^ (cut - 1)) / 2 ^ cut
  let k := e + cut + 1074
  if 0 ≤ k then F64.round neg (m * 2 ^ k.toNat) 1 else F64.round neg m (2 ^ (-k).toNat)

/-- Horner evaluation of `exp(r) = 1 + r/1 * (1 + r/2 * (1 + ...))`. -/
def expSeries (r : Nat) : Nat → Nat → Nat
  | 0, acc => acc
  | k + 1, acc => expSeries r k (one + acc * r / (one * (k + 1)))

/-- `exp(t / 2^prec)` as `n * 2^e`, for a `t` of moderate size. -/
def expFix (t : Int) : Nat × Int :=
  let k := t / ln2
  (expSeries (t - k * ln2).toNat 80 one, k - prec)

/-- `sum z^k / (2k + 1)` for `k` up to the fuel: `atanh(w) = w * atanhSeries(w*w)`. -/
def atanhSeries (z : Nat) : Nat → Nat → Nat
  | 0, acc => acc
  | k + 1, acc => atanhSeries z k (one / (2 * k + 1) + acc * z / one)

/-- `sum (-1)^k z^k / (2k + 1)!`: `sin(r) = r * sinSeries(r*r)`. -/
def sinSeries (z : Nat) : Nat → Nat → Nat
  | 0, acc => acc
  | k + 1, acc => sinSeries z k (one - acc * z / (one * ((2 * k + 2) * (2 * k + 3))))

/-- `sum (-1)^k z^k / (2k)!`: `cos(r) = cosSeries(r*r)`. -/
def cosSeries (z : Nat) : Nat → Nat → Nat
  | 0, acc => acc
  | k + 1, acc => cosSeries z k (one - acc * z / (one * ((2 * k + 1) * (2 * k + 2))))

/-- `ln` of `u` units, `u > 0`, as a fixed-point number: with `x = f * 2^k` and `f` in [3/4, 3/2),
`ln x = k ln 2 + 2 atanh((f - 1)/(f + 1))`. -/
def lnFix (u : Nat) : Int :=
  let b := Nat.log2 u
  let d := if 3 * 2 ^ b ≤ 2 * u then 2 ^ (b + 1) else 2 ^ b
  let k : Int := (if 3 * 2 ^ b ≤ 2 * u then b + 1 else b : Nat) - 1074
  let w := (if d ≤ u then u - d else d - u) * one / (u + d)
  k * ln2 + F64.signed (decide (u < d)) (2 * (w * atanhSeries (w * w / one) 90 0 / one))

/-- A signed fixed-point number narrowed to binary64. -/
def narrowInt (v : Int) : F64 := if v = 0 then F64.zero false else narrow (v < 0) v.natAbs (-(prec : Int))

/-- The reals below are finite, given by sign and units: the exponential of a fixed-point number, with IEEE overflow
and underflow. -/
def expOf (neg : Bool) (t : Int) : F64 :=
  if (800 * one : Nat) < t then .inf neg
  else if t < -((800 * one : Nat) : Int) then F64.zero neg
  else narrow neg (expFix t).1 (expFix t).2

/-- A finite real as a fixed-point number (rounded down below 2^-384). -/
def fix (neg : Bool) (u : Nat) : Int := F64.signed neg u * one / (2 ^ 1074 : Nat)

/-- `exp` (R18): `exp(-inf) = 0`, `exp(+inf) = +inf`, `exp(±0) = 1`. -/
def exp : F64 → F64
  | .nan => .nan
  | .inf s => if s then F64.zero false else .inf false
  | .fin s e f => expOf false (fix s (F64.units e f))

/-- `cosh`: `cosh(±inf) = +inf`. -/
def cosh : F64 → F64
  | .nan => .nan
  | .inf _ => .inf false
  | .fin _ e f =>
    let t := fix false (F64.units e f)
    if (800 * one : Nat) < t then .inf false
    else
      let a := expFix t
      let b := expFix (-t)
      narrow false (a.1 * 2 ^ (a.2 - b.2).toNat + b.1) (b.2 - 1)

/-- `ln` (R18): `ln(±0) = -inf`, NaN below zero, `ln(+inf) = +inf`, `ln(1) = +0`. -/
def ln : F64 → F64
  | .nan => .nan
  | .inf s => if s then .nan else .inf false
  | .fin s e f =>
    if F64.units e f = 0 then .inf true else if s then .nan else narrowInt (lnFix (F64.units e f))

/-- `log10` (R18): `log10(±0) = -inf`, NaN below zero, `log10(+inf) = +inf`. -/
def log10 : F64 → F64
  | .nan => .nan
  | .inf s => if s then .nan else .inf false
  | .fin s e f =>
    if F64.units e f = 0 then .inf true else if s then .nan
    else narrowInt (lnFix (F64.units e f) * one / ln10)

/-- Argument reduction: `u` units are `q * pi/2` plus or minus `r`, `r` a fixed-point number of at most `pi/4`;
the Bool is true for minus. -/
def reduce (u : Nat) : Nat × Bool × Nat :=
  let x := u * 2 ^ (piPrec - 1074)
  let q := (x + halfPi / 2) / halfPi
  (q, decide (x < q * halfPi),
    (if q * halfPi ≤ x then x - q * halfPi else q * halfPi - x) / 2 ^ (piPrec - prec))

/-- `sin` of a reduced argument. -/
def sinFix (r : Nat) : Nat := r * sinSeries (r * r / one) 44 one / one

/-- `cos` of a reduced argument. -/
def cosFix (r : Nat) : Nat := cosSeries (r * r / one) 44 one

/-- `sin` of a quadrant and a reduced argument. -/
def sinQuadrant (neg : Bool) : Nat × Bool × Nat → F64
  | (q, minus, r) =>
    if q % 2 = 0 then narrow (neg ^^ decide (2 ≤ q % 4) ^^ minus) (sinFix r) (-(prec : Int))
    else narrow (neg ^^ decide (2 ≤ q % 4)) (cosFix r) (-(prec : Int))

/-- `sin`: `sin(±0) = ±0`, NaN at the infinities.  Below 1 the result is `x * (1 - x^2/6 + ...)`, which keeps its
relative accuracy down to the smallest subnormal. -/
def sin : F64 → F64
  | .nan => .nan
  | .inf _ => .nan
  | .fin s e f =>
    let u := F64.units e f
    if u = 0 then .fin s e f
    else if u < 2 ^ 1074 then
      narrow s (u * sinSeries (u * u * 2 ^ prec / 2 ^ 2148) 44 one) (-(prec : Int) - 1074)
    else sinQuadrant s (reduce u)

/-- `cos`: `cos(±0) = 1`, NaN at the infinities. -/
def cos : F64 → F64
  | .nan => .nan
  | .inf _ => .nan
  | .fin _ e f =>
    let qr := reduce (F64.units e f)
    sinQuadrant false (qr.1 + 1, qr.2.1, qr.2.2)

/-- Whether a finite real of `u` units is a whole number. -/
def isWhole (u : Nat) : Bool := u % 2 ^ 1074 == 0

/-- Whether a finite real of `u` units is an odd whole number. -/
def isOdd (u : Nat) : Bool := u % 2 ^ 1075 == 2 ^ 1074

/-- `pow(x, y)` for finite `x`, `y` with `x` of `u > 0` units and `y` not zero: `exp(y ln x)`. -/
def powFinite (neg : Bool) (u : Nat) (t : Bool) (v : Nat) : F64 :=
  expOf neg (F64.signed t v * lnFix u / (2 ^ 1074 : Nat))

/-- `pow` (R18), with the special operands of IEEE 754: `pow(x, ±0) = 1` and `pow(1, y) = 1` even for a NaN,
`pow(-1, ±inf) = 1`, zeros and infinities by the sign and parity of `y`, NaN for a negative finite base and an
exponent that is not whole. -/
def pow (x y : F64) : F64 :=
  match x, y with
  | .nan, .fin _ e f => if F64.units e f = 0 then F64.ofNat 1 else .nan
  | .nan, _ => .nan
  | .inf _, .nan => .nan
  | .inf _, .inf t => if t then F64.zero false else .inf false
  | .inf s, .fin t e f =>
    if F64.units e f = 0 then F64.ofNat 1
    else if t then F64.zero (s && isOdd (F64.units e f))
    else .inf (s && isOdd (F64.units e f))
  | .fin s e f, .nan => if !s && F64.units e f == 2 ^ 1074 then F64.ofNat 1 else .nan
  | .fin _ e f, .inf t =>
    if F64.units e f = 2 ^ 1074 then F64.ofNat 1
    else if decide (2 ^ 1074 < F64.units e f) ^^ t then .inf false
    else F64.zero false
  | .fin s e f, .fin t e' f' =>
    let u := F64.units e f
    let v := F64.units e' f'
    if v = 0 then F64.ofNat 1
    else if u = 0 then (if t then .inf (s && isOdd v) else F64.zero (s && isOdd v))
    else if s && !isWhole v then .nan
    else powFinite (s && isOdd v) u t v

end Libm
end Sys2Proof
end

