-- ==== Sys2Proof/Config.lean ====
section
/-!
DEFINITION. The configuration of a model instance (spec/00_scope.md R12): the OPEN parameters, taken as an argument
by every kernel, and the free values the spec leaves to no parameter.

A value of `Params` is fixed for the life of an instance (R12, R115).  The reference instance, every parameter at the
spec's default, is `defaults` in Machine/Defaults.lean.  Rows of R12 marked `source` are constants of
Machine/Primitives.lean, but for PUNCH_RATIO and the two end entries of BELL_FREQ_TABLE, which are held in `Params`
(DESIGN CHOICE, notes/assumptions/21.md).
-/

namespace Sys2Proof
namespace Config

/-- The library functions LIBM (R18). -/
structure Libm where
  sin : F64 → F64
  cos : F64 → F64
  cosh : F64 → F64
  exp : F64 → F64
  ln : F64 → F64
  log10 : F64 → F64
  pow : F64 → F64 → F64

/-- DENORM_MODE (R243): flush a subnormal to a zero, or to a normal positive real `v`, with its sign. -/
inductive DenormMode where
  | ftz
  | tiny (v : F64)
  deriving DecidableEq, Repr

/-- A biquad coefficient set, normalised so that `a0 = 1` (R255). -/
structure Coeffs where
  b0 : F64
  b1 : F64
  b2 : F64
  a1 : F64
  a2 : F64
  deriving DecidableEq, Repr

/-- The OPEN parameters of R12, under the spec's names, and PUNCH_RATIO, which R12 marks `source` and D48 of
spec/92_eei_decisions.md calls OPEN (DESIGN CHOICE, notes/assumptions/21.md).  The type admits more values than the rows
of R12 do. -/
structure Params where
  /-- BYPASS_EPS -/
  bypassEps : F64
  /-- DENORM_MODE -/
  denormMode : DenormMode
  /-- LIBM -/
  libm : Libm
  /-- HPF_DESIGN(f, Q, Fd), over the library of the instance -/
  hpfDesign : Libm → F64 → F64 → F64 → Coeffs
  /-- LPF_DESIGN(f, Q, Fd) -/
  lpfDesign : Libm → F64 → F64 → F64 → Coeffs
  /-- DRIVE_MIN_DB, DRIVE_MAX_DB -/
  driveMinDb : F64
  driveMaxDb : F64
  /-- PURE_FN(prev, ch, x): the value to store in `prev` (before `dnz`) and the output (R350) -/
  pureFn : Libm → F64 → F64 → F64 → F64 × F64
  /-- TUBE_PF of the PI and OS instances, TUBE_HYST, TUBE_NEG -/
  tubePfPi : F64
  tubePfOs : F64
  tubeHyst : F64
  tubeNeg : F64
  /-- TAPE_* -/
  tapeCompand : F64
  tapeFlutterDepth44 : F64
  tapeLfoTable : List F64
  tapeLfoRateHz : F64
  tapeJitter : F64
  tapePhase0L : F64
  tapePhase0R : F64
  tapeBumpHz : F64
  tapeBumpQ : F64
  tapeBumpDb : F64
  tapeBiasSlew44 : F64
  tapeClip : F64
  tapeSeedPiL : BitVec 32
  tapeSeedPiR : BitVec 32
  tapeSeedOsL : BitVec 32
  tapeSeedOsR : BitVec 32
  /-- CLIP_CEIL, SOFT_K, SOFT_SMAX -/
  clipCeil : F64
  softK : F64
  softSmax : F64
  /-- CC_RATIO, CC_ATK_MS, CC_REL_MS, CC_DET_MS, modes Normal and Fast -/
  ccRatioNormal : F64
  ccRatioFast : F64
  ccAtkNormal : F64
  ccAtkFast : F64
  ccRelNormal : F64
  ccRelFast : F64
  ccDetNormal : F64
  ccDetFast : F64
  /-- LD_EXP_DEPTH, LD_LIFT_DEPTH, LD_LIFT_MAX_DB, LD_ATK_MS, LD_REL_MS, LD_RMS_MS -/
  ldExpDepth : F64
  ldLiftDepth : F64
  ldLiftMaxDb : F64
  ldAtkMs : F64
  ldRelMs : F64
  ldRmsMs : F64
  /-- EQ_GAIN_MAX, SHELF_S, SHELF_DIV, BELL_FREQ_TABLE (its entries 0 and 14 are `source`, notes/assumptions/21.md) -/
  eqGainMax : F64
  shelfS : F64
  shelfDiv : F64
  bellFreqTable : List F64
  /-- SC_THRESH_DB, OPT_*, PUNCH_REL_MS -/
  scThreshDb : F64
  optRatio : F64
  optAtkTable : List F64
  optRelTable : List F64
  optStage2Ms : F64
  /-- PUNCH_RATIO: 20 in every instance by R12 and R540, an OPEN parameter of default 20 by D48; the model keeps it an
  argument, and the machine's value is 20 (DESIGN CHOICE, notes/assumptions/21.md). -/
  punchRatio : F64
  punchRelMs : F64
  /-- CO_HPK and CO_SLEW of profiles A, B and C, CO_HP_LEVEL, CO_BLEND, CO_SPIRAL_ASYM, CO_PURE_INTENSITY -/
  coHpkA : F64
  coHpkB : F64
  coHpkC : F64
  coSlewA : F64
  coSlewB : F64
  coSlewC : F64
  coHpLevel : F64
  coBlend : F64
  coSpiralAsym : F64
  coPureIntensity : F64
  /-- CO_SEED, DITHER_AMP -/
  coSeedL : BitVec 32
  coSeedR : BitVec 32
  ditherAmp : F64
  /-- OV_MIN_DB, OV_MAX_DB -/
  ovMinDb : F64
  ovMaxDb : F64

/-! ### Free values: no body, so nothing can be proved of them -/

/-- The sign and payload of a NaN that is turned into bits (R242), for the channel, the channel's sample count and
the register or response that shows it (notes/assumptions/1.md). -/
opaque nanBits : Nat → Nat → Nat → Word

/-- `int(floor(x))` or `int(ceil(x))` of a real that is not finite: R246 defines them for finite reals only
(notes/assumptions/2.md). -/
opaque unstatedInt : F64 → Int

/-- How far behind a meter-port read is, for the index it reads and the number of earlier reads of that index (R108,
notes/assumptions/3.md). -/
opaque meterLag : Nat → Nat → Nat

end Config
end Sys2Proof
end

