-- ==== Sys2Proof/Machine/Primitives.lean ====
section
/-!
DEFINITION. Constants the source states (spec/00_scope.md R12) and the shared kernels of spec/41_primitives.md:
`dnz`, dB conversion, table interpolation, time constants, biquads and their designs, and the PRNG.

The spec's operators are F64 methods: `a + b` is `a.add b`, and an expression is grouped as the spec groups it
(R14, R261).
-/

namespace Sys2Proof.Machine

open Config

/-! ### Source constants of R12 -/

/-- 0.0, 1.0 and 2.0. -/
def c0 : F64 := F64.zero false
def c1 : F64 := F64.ofNat 1
def c2 : F64 := F64.ofNat 2

/-- `pi`, the binary64 value nearest to it (R18), and `halfpi = pi / 2.0` (R19). -/
def pi : F64 := real 0x400921FB54442D18
def halfpi : F64 := pi.div c2

/-- FADE_TIME_S -/
def fadeTimeS : F64 := F64.dec 1 2
/-- F_MIN_HZ and F_MAX_FRAC -/
def fMinHz : F64 := F64.ofNat 20
def fMaxFrac : F64 := F64.dec 49 2
/-- Q_NORMAL, Q_BUMP, Q_LPF6, Q_MIN, Q_MAX -/
def qNormal : F64 := F64.dec 707 3
def qBump : F64 := c1
def qLpf6 : F64 := F64.dec 5 1
def qMin : F64 := F64.dec 1 1
def qMax : F64 := F64.ofNat 10
/-- DRIVE_CHAR_DB -/
def driveCharDb : F64 := F64.ofNat 18
/-- PHI -/
def phi : F64 := F64.dec 6180339887498949 16
/-- LD_KNEE_DB, LD_MAX_CUT_DB, LD_WARMUP_N, LD_WARMUP_DB -/
def ldKneeDb : F64 := F64.dec 5 1
def ldMaxCutDb : F64 := F64.ofNat 96
def ldWarmupN : Nat := 100
def ldWarmupDb : F64 := F64.ofNat 6
/-- PUNCH_ATK_MS -/
def punchAtkMs : F64 := F64.ofNat 24
/-- SR_REF -/
def srRef : F64 := F64.ofNat 44100

/-! ### Integers read from a real (R246, R247) -/

/-- `int(floor(x))`; free where `x` is not finite. -/
def intFloor (x : F64) : Int := (F64.floorInt x).getD (unstatedInt x)

/-- `int(ceil(x))`; free where `x` is not finite. -/
def intCeil (x : F64) : Int := (F64.ceilInt x).getD (unstatedInt x)

/-! ### Subnormals, decibels, tables, time constants -/

/-- `dnz(x)` (R243). -/
def dnz (mode : DenormMode) (x : F64) : F64 :=
  if x.isSubnormal then
    match mode with
    | .ftz => if x.lt c0 then F64.zero true else F64.zero false
    | .tiny v => if x.lt c0 then v.neg else v
  else x

/-- `db2lin(d) = pow(10.0, d / 20.0)` (R19, R249). -/
def db2lin (lib : Libm) (d : F64) : F64 := lib.pow (F64.ofNat 10) (d.div (F64.ofNat 20))

/-- `lin2db(g) = 20.0 * log10(g)` (R19, R249). -/
def lin2db (lib : Libm) (g : F64) : F64 := (F64.ofNat 20).mul (lib.log10 g)

/-- `T[i]` of a lookup table (R250).  Every rule bounds its index by the table's length. -/
def tableAt (t : List F64) (i : Nat) : F64 := t.getD i .nan

/-- `lut_lin(T, pos)` (R251). -/
def lutLin (t : List F64) (pos : F64) : F64 :=
  let n := t.length
  let p := F64.clamp (if pos.isNaN then c0 else pos) c0 (F64.ofNat (n - 1))
  let i := (intFloor p).toNat
  if i = n - 1 then tableAt t (n - 1)
  else (tableAt t i).add (((tableAt t (i + 1)).sub (tableAt t i)).mul (p.sub (F64.ofNat i)))

/-- `lut_exp(T, x)` (R252). -/
def lutExp (t : List F64) (x : F64) : F64 :=
  if x.isNaN || x.le c0 then tableAt t 0
  else if x = .inf false then tableAt t (t.length - 1)
  else
    let me := F64.frexp x
    lutLin t (((F64.ofInt me.2).add (c2.mul me.1)).sub c2)

/-- `onepole(ms) = exp(-1.0 / ((ms * 0.001) * SR))` (R253).  R253 adds that it lies in [0, 1) for every positive finite
`ms` and SR; the formula rounds to 1.0 at the largest accepted rates (`ms` 10 and SR 1e19, or an overflow of the
product).  The model follows the formula and adds no guard (DEDUCED, notes/assumptions/20.md). -/
def onepole (lib : Libm) (sr ms : F64) : F64 := lib.exp (c1.neg.div ((ms.mul (F64.dec 1 3)).mul sr))

/-- `OVERALLSCALE = SR / SR_REF` (R254). -/
def overallScale (sr : F64) : F64 := sr.div srRef

/-- `TAPE_BUF(SR)` (10_state.md R61): the length of a Tape delay line. -/
def tapeBuf (cfg : Params) (sr : F64) : Nat :=
  (intCeil (((c2.mul cfg.tapeFlutterDepth44).mul sr).div srRef)).toNat + 2

/-! ### Biquads -/

/-- The two history samples of a biquad section (R256). -/
structure Biquad where
  s1 : F64
  s2 : F64
  deriving DecidableEq, Repr

/-- A section from zero state. -/
def Biquad.reset : Biquad := ⟨c0, c0⟩

/-- `BIQ(s, q, x)` (R256), transposed direct form II: the next state and the output.  R258, R490, R493 and R499 say that a
flat band returns its input from zero state; the formula gives that up to the sign of a zero (`b0 * (-0.0) + 0.0` is
`+0.0`), and the model follows the formula (DEDUCED, notes/assumptions/20.md). -/
def biq (mode : DenormMode) (s : Biquad) (q : Coeffs) (x : F64) : Biquad × F64 :=
  let y := (q.b0.mul x).add s.s1
  (⟨dnz mode (((q.b1.mul x).sub (q.a1.mul y)).add s.s2), dnz mode ((q.b2.mul x).sub (q.a2.mul y))⟩, y)

/-- The normalisation of R255: one division per coefficient. -/
def normalise (B0 B1 B2 A0 A1 A2 : F64) : Coeffs :=
  ⟨B0.div A0, B1.div A0, B2.div A0, A1.div A0, A2.div A0⟩

/-- `w0 = ((2.0 * pi) * f) / Fd` (R257).  R264 states `0 < w0 < 0.98 * pi` and `sin w0 > 0` at every rate; at the ends
of the accepted rates the rounded formula does not give that (`0.49 * SR` is 0.0 at the smallest subnormal SR, and
`(2.0 * pi) * f` overflows near the largest).  The model follows the formula and adds no guard (DEDUCED,
notes/assumptions/20.md). -/
def omega (f fd : F64) : F64 := ((c2.mul pi).mul f).div fd

/-- `A = pow(10.0, G / 40.0)` (R257). -/
def shelfA (lib : Libm) (g : F64) : F64 := lib.pow (F64.ofNat 10) (g.div (F64.ofNat 40))

/-- `PEAK(f, Q, G, Fd)` (R258). -/
def peak (lib : Libm) (f q g fd : F64) : Coeffs :=
  let w0 := omega f fd
  let cw := lib.cos w0
  let alpha := (lib.sin w0).div (c2.mul q)
  let a := shelfA lib g
  normalise (c1.add (alpha.mul a)) (c2.neg.mul cw) (c1.sub (alpha.mul a))
    (c1.add (alpha.div a)) (c2.neg.mul cw) (c1.sub (alpha.div a))

/-- `alpha` of the shelves (R259). -/
def shelfAlpha (lib : Libm) (w0 a s : F64) : F64 :=
  ((lib.sin w0).div c2).mul
    ((((a.add (c1.div a)).mul ((c1.div s).sub c1)).add c2).sqrt)

/-- `LSHELF(f, G, S, Fd)` (R259). -/
def lshelf (lib : Libm) (f g s fd : F64) : Coeffs :=
  let w0 := omega f fd
  let cw := lib.cos w0
  let a := shelfA lib g
  let sA := (c2.mul a.sqrt).mul (shelfAlpha lib w0 a s)
  let p := a.add c1
  let m := a.sub c1
  normalise
    (a.mul ((p.sub (m.mul cw)).add sA))
    ((c2.mul a).mul (m.sub (p.mul cw)))
    (a.mul ((p.sub (m.mul cw)).sub sA))
    ((p.add (m.mul cw)).add sA)
    (c2.neg.mul (m.add (p.mul cw)))
    ((p.add (m.mul cw)).sub sA)

/-- `HSHELF(f, G, S, Fd)` (R260). -/
def hshelf (lib : Libm) (f g s fd : F64) : Coeffs :=
  let w0 := omega f fd
  let cw := lib.cos w0
  let a := shelfA lib g
  let sA := (c2.mul a.sqrt).mul (shelfAlpha lib w0 a s)
  let p := a.add c1
  let m := a.sub c1
  normalise
    (a.mul ((p.add (m.mul cw)).add sA))
    ((c2.neg.mul a).mul (m.add (p.mul cw)))
    (a.mul ((p.add (m.mul cw)).sub sA))
    ((p.sub (m.mul cw)).add sA)
    (c2.mul (m.sub (p.mul cw)))
    ((p.sub (m.mul cw)).sub sA)

/-- `HPF_DESIGN(f, Q, Fd)`, the default instance (R262): matched poles, unit gain at Nyquist. -/
def hpfDesignDefault (lib : Libm) (f q fd : F64) : Coeffs :=
  let wt := omega f fd
  let r := lib.exp (wt.neg.div (c2.mul q))
  let q4 := c1.div (((F64.ofNat 4).mul q).mul q)
  let half := F64.dec 5 1
  let a1 :=
    if half.lt q then (c2.neg.mul r).mul (lib.cos (wt.mul (c1.sub q4).sqrt))
    else if q.lt half then (c2.neg.mul r).mul (lib.cosh (wt.mul (q4.sub c1).sqrt))
    else c2.neg.mul r
  let a2 := lib.exp (wt.neg.div q)
  let g := ((c1.sub a1).add a2).div (F64.ofNat 4)
  ⟨g, c2.neg.mul g, g, a1, a2⟩

/-- `LPF_DESIGN(f, Q, Fd)`, the default instance (R263): the cookbook lowpass. -/
def lpfDesignDefault (lib : Libm) (f q fd : F64) : Coeffs :=
  let w0 := omega f fd
  let cw := lib.cos w0
  let alpha := (lib.sin w0).div (c2.mul q)
  normalise ((c1.sub cw).div c2) (c1.sub cw) ((c1.sub cw).div c2)
    (c1.add alpha) (c2.neg.mul cw) (c1.sub alpha)

/-! ### The pseudo-random generator (R247, R248, R270-R272) -/

/-- `xorshift32(s)` (R270): shifts modulo 2^32, the right shift logical. -/
def xorshift32 (s : BitVec 32) : BitVec 32 :=
  let s1 := s ^^^ (s <<< 13)
  let s2 := s1 ^^^ (s1 >>> 17)
  s2 ^^^ (s2 <<< 5)

/-- `rand01(s)` (R271): the advanced word and a real in (0, 1). -/
def rand01 (s : BitVec 32) : BitVec 32 × F64 :=
  (xorshift32 s, (F64.ofNat (xorshift32 s).toNat).div (F64.ofNat 4294967296))

/-- `tpdf(s)` (R272): two draws, in order. -/
def tpdf (amp : F64) (s : BitVec 32) : BitVec 32 × F64 :=
  ((rand01 (rand01 s).1).1, ((rand01 s).2.sub (rand01 (rand01 s).1).2).mul amp)

/-- The Pure saturator, the default instance of PURE_FN (43_saturation.md R350): the value for `prev` and the
output. -/
def pureDefault (lib : Libm) (prev ch x : F64) : F64 × F64 :=
  let s := lib.sin x
  let apply := ((prev.add s).abs.div c2).mul ch
  (s, (x.mul (c1.sub apply)).add (s.mul apply))

end Sys2Proof.Machine
end

