-- ==== Sys2Proof/Machine/Defaults.lean ====
section
/-!
DEFINITION. The reference instance of the configuration: every OPEN parameter at the spec's default
(spec/00_scope.md R12).  The machine of this package is this instance (notes/assumptions/4.md); every kernel takes
the parameters as an argument.
-/

namespace Sys2Proof.Machine

open Config F64

/-- LIBM, correctly rounded (R18). -/
def libmDefault : Config.Libm :=
  { sin := Libm.sin, cos := Libm.cos, cosh := Libm.cosh, exp := Libm.exp, ln := Libm.ln, log10 := Libm.log10,
    pow := Libm.pow }

/-- TAPE_LFO_TABLE (43_saturation.md R359). -/
def tapeLfoTableDefault : List F64 :=
  [zero false, dec 62 2, (dec 35 2).neg, dec 91 2, (dec 78 2).neg, dec 14 2, dec 47 2, (dec 96 2).neg,
   dec 33 2, (dec 12 2).neg, dec 85 2, (dec 54 2).neg, dec 27 2, (dec 69 2).neg, dec 58 2, (dec 21 2).neg]

/-- BELL_FREQ_TABLE (46_eq.md R497): `50.0 * pow(260.0, real(i) / 14.0)`. -/
def bellFreqTableDefault : List F64 :=
  (List.range 15).map fun i => (ofNat 50).mul (libmDefault.pow (ofNat 260) ((ofNat i).div (ofNat 14)))

/-- OPT_ATK_TABLE and OPT_REL_TABLE (47_style_comp.md R536). -/
def optAtkTableDefault : List F64 :=
  [ofNat 10, ofNat 9, ofNat 8, ofNat 7, ofNat 6, ofNat 5, dec 45 1, ofNat 4, dec 35 1, ofNat 3, dec 25 1, ofNat 2,
   dec 15 1]
def optRelTableDefault : List F64 := [ofNat 60, ofNat 150, ofNat 400, ofNat 1000, ofNat 2500]

/-- Every parameter at its default (R12). -/
def defaults : Params where
  bypassEps := dec 1 6
  denormMode := .ftz
  libm := libmDefault
  hpfDesign := hpfDesignDefault
  lpfDesign := lpfDesignDefault
  driveMinDb := (ofNat 24).neg
  driveMaxDb := ofNat 18
  pureFn := pureDefault
  tubePfPi := ofNat 2
  tubePfOs := ofNat 3
  tubeHyst := dec 1 1
  tubeNeg := dec 5 1
  tapeCompand := ofNat 2
  tapeFlutterDepth44 := ofNat 2
  tapeLfoTable := tapeLfoTableDefault
  tapeLfoRateHz := ofNat 6
  tapeJitter := dec 5 1
  tapePhase0L := zero false
  tapePhase0R := ofNat 8
  tapeBumpHz := ofNat 90
  tapeBumpQ := ofNat 1
  tapeBumpDb := ofNat 3
  tapeBiasSlew44 := dec 25 2
  tapeClip := ofNat 1
  tapeSeedPiL := 0x9E3779B9
  tapeSeedPiR := 0x7F4A7C15
  tapeSeedOsL := 0x85EBCA6B
  tapeSeedOsR := 0xC2B2AE35
  clipCeil := ofNat 1
  softK := dec 1 3
  softSmax := dec 5 1
  ccRatioNormal := ofNat 4
  ccRatioFast := ofNat 8
  ccAtkNormal := ofNat 10
  ccAtkFast := ofNat 1
  ccRelNormal := ofNat 200
  ccRelFast := ofNat 50
  ccDetNormal := ofNat 5
  ccDetFast := ofNat 1
  ldExpDepth := ofNat 4
  ldLiftDepth := dec 5 1
  ldLiftMaxDb := ofNat 12
  ldAtkMs := ofNat 1
  ldRelMs := ofNat 100
  ldRmsMs := ofNat 10
  eqGainMax := ofNat 15
  shelfS := ofNat 1
  shelfDiv := ofNat 2
  bellFreqTable := bellFreqTableDefault
  scThreshDb := (ofNat 12).neg
  optRatio := ofNat 3
  optAtkTable := optAtkTableDefault
  optRelTable := optRelTableDefault
  optStage2Ms := ofNat 20
  punchRatio := ofNat 20
  punchRelMs := ofNat 100
  coHpkA := dec 3 4
  coHpkB := dec 2 4
  coHpkC := dec 4 4
  coSlewA := dec 35 2
  coSlewB := dec 25 2
  coSlewC := dec 45 2
  coHpLevel := ofNat 1
  coBlend := dec 5 1
  coSpiralAsym := dec 11 1
  coPureIntensity := dec 75 2
  coSeedL := 0x27D4EB2F
  coSeedR := 0x165667B1
  ditherAmp := real 0x3E70000000000000
  ovMinDb := (ofNat 60).neg
  ovMaxDb := ofNat 12

end Sys2Proof.Machine
end

