-- ==== Sys2Proof/Machine/State.lean ====
section
/-!
DEFINITION. The state of the block (spec/10_state.md), its value after power-on reset (spec/70_reset_and_hazards.md
R740), and the reasons a step can stop.

Every register of a bank is a field under the spec's name.  Each channel engine owns its state (R60).  The last
group of `State`'s fields is the model's own: what stands on the two ports, and the counters of the free values.
-/

namespace Sys2Proof.Machine

open Config

/-! ### Banks 0, 1 and 2 (R47, R51) -/

/-- The 37 parameter registers of bank 0 (R47), each a 64-bit pattern. -/
structure ParamBank where
  /-- 0x00 PI_BYPASS -/
  piBypass : Word
  /-- 0x01 PI_ALGO -/
  piAlgo : Word
  /-- 0x02 PI_DRIVE -/
  piDrive : Word
  /-- 0x08 FL_BYPASS -/
  flBypass : Word
  /-- 0x09 HPF_FREQ -/
  hpfFreq : Word
  /-- 0x0A HPF_SLOPE -/
  hpfSlope : Word
  /-- 0x0B HPF_QMODE -/
  hpfQmode : Word
  /-- 0x0C LPF_FREQ -/
  lpfFreq : Word
  /-- 0x0D LPF_SLOPE -/
  lpfSlope : Word
  /-- 0x0E LPF_QMODE -/
  lpfQmode : Word
  /-- 0x10 CC_BYPASS -/
  ccBypass : Word
  /-- 0x11 CC_MODE -/
  ccMode : Word
  /-- 0x12 CC_THRESH -/
  ccThresh : Word
  /-- 0x14 LD_BYPASS -/
  ldBypass : Word
  /-- 0x15 LD_RATIO -/
  ldRatio : Word
  /-- 0x16 LD_THRESH -/
  ldThresh : Word
  /-- 0x18 EQ_BYPASS -/
  eqBypass : Word
  /-- 0x19 EQ_BASS_GAIN -/
  eqBassGain : Word
  /-- 0x1A EQ_BASS_FREQ -/
  eqBassFreq : Word
  /-- 0x1B EQ_B1_GAIN -/
  eqB1Gain : Word
  /-- 0x1C EQ_B1_FIDX -/
  eqB1Fidx : Word
  /-- 0x1D EQ_B2_GAIN -/
  eqB2Gain : Word
  /-- 0x1E EQ_B2_FIDX -/
  eqB2Fidx : Word
  /-- 0x1F EQ_TREB_GAIN -/
  eqTrebGain : Word
  /-- 0x20 EQ_TREB_FREQ -/
  eqTrebFreq : Word
  /-- 0x24 SC_BYPASS -/
  scBypass : Word
  /-- 0x25 SC_ALGO -/
  scAlgo : Word
  /-- 0x26 SC_IN -/
  scIn : Word
  /-- 0x27 SC_MAKEUP -/
  scMakeup : Word
  /-- 0x28 SC_MIX -/
  scMix : Word
  /-- 0x2C CO_BYPASS -/
  coBypass : Word
  /-- 0x2D CO_PROFILE -/
  coProfile : Word
  /-- 0x30 OS_BYPASS -/
  osBypass : Word
  /-- 0x31 OS_ALGO -/
  osAlgo : Word
  /-- 0x32 OS_DRIVE -/
  osDrive : Word
  /-- 0x38 OV_BYPASS -/
  ovBypass : Word
  /-- 0x39 OV_GAIN -/
  ovGain : Word
  deriving DecidableEq, Repr

/-- The reset column of R47. -/
def ParamBank.reset : ParamBank where
  piBypass := 1
  piAlgo := 0
  piDrive := 0  -- 0.0
  flBypass := 1
  hpfFreq := 0x4034000000000000  -- 20.0
  hpfSlope := 0
  hpfQmode := 0
  lpfFreq := 0x40D3880000000000  -- 20000.0
  lpfSlope := 0
  lpfQmode := 0
  ccBypass := 1
  ccMode := 0
  ccThresh := 0  -- 0.0
  ldBypass := 1
  ldRatio := 0  -- 0.0
  ldThresh := 0xC044000000000000  -- -40.0
  eqBypass := 1
  eqBassGain := 0  -- 0.0
  eqBassFreq := 0x4059000000000000  -- 100.0
  eqB1Gain := 0  -- 0.0
  eqB1Fidx := 4
  eqB2Gain := 0  -- 0.0
  eqB2Fidx := 10
  eqTrebGain := 0  -- 0.0
  eqTrebFreq := 0x40C3880000000000  -- 10000.0
  scBypass := 1
  scAlgo := 0
  scIn := 0  -- 0.0
  scMakeup := 0  -- 0.0
  scMix := 0x4059000000000000  -- 100.0
  coBypass := 1
  coProfile := 0
  osBypass := 1
  osAlgo := 0
  osDrive := 0  -- 0.0
  ovBypass := 1
  ovGain := 0  -- 0.0

/-- The 19 offset registers of bank 1 or bank 2 (R51). -/
structure OfsBank where
  /-- 0x02 PI_DRIVE_OFS -/
  piDriveOfs : Word
  /-- 0x09 HPF_FREQ_OFS -/
  hpfFreqOfs : Word
  /-- 0x0C LPF_FREQ_OFS -/
  lpfFreqOfs : Word
  /-- 0x12 CC_THRESH_OFS -/
  ccThreshOfs : Word
  /-- 0x16 LD_THRESH_OFS -/
  ldThreshOfs : Word
  /-- 0x19 EQ_BASS_GAIN_OFS -/
  eqBassGainOfs : Word
  /-- 0x1A EQ_BASS_FREQ_OFS -/
  eqBassFreqOfs : Word
  /-- 0x1B EQ_B1_GAIN_OFS -/
  eqB1GainOfs : Word
  /-- 0x1D EQ_B2_GAIN_OFS -/
  eqB2GainOfs : Word
  /-- 0x1F EQ_TREB_GAIN_OFS -/
  eqTrebGainOfs : Word
  /-- 0x20 EQ_TREB_FREQ_OFS -/
  eqTrebFreqOfs : Word
  /-- 0x26 SC_IN_OFS -/
  scInOfs : Word
  /-- 0x27 SC_MAKEUP_OFS -/
  scMakeupOfs : Word
  /-- 0x32 OS_DRIVE_OFS -/
  osDriveOfs : Word
  /-- 0x39 OV_GAIN_OFS -/
  ovGainOfs : Word
  /-- 0x3C HPF_QOFS -/
  hpfQofs : Word
  /-- 0x3D LPF_QOFS -/
  lpfQofs : Word
  /-- 0x3E B1_QOFS -/
  b1Qofs : Word
  /-- 0x3F B2_QOFS -/
  b2Qofs : Word
  deriving DecidableEq, Repr

/-- Every offset 0.0 (R51). -/
def OfsBank.reset : OfsBank :=
  ⟨0, 0, 0, 0, 0, 0, 0, 0, 0, 0, 0, 0, 0, 0, 0, 0, 0, 0, 0⟩

/-- `ACT` (R45): the copy of banks 0, 1 and 2 that BLOCK latches and SMP reads. -/
structure ActiveSet where
  param : ParamBank
  ofsL : OfsBank
  ofsR : OfsBank
  deriving DecidableEq, Repr

/-- `ACT` at power-on: the reset values of the shadow registers (R45). -/
def ActiveSet.reset : ActiveSet := ⟨ParamBank.reset, OfsBank.reset, OfsBank.reset⟩

/-! ### Channel state (R60) -/

/-- The crossfade mixes `S[c].byp[k].mix` of the nine stages (R290, R292). -/
structure Mixes where
  pi : F64
  fl : F64
  cc : F64
  ld : F64
  eq : F64
  sc : F64
  co : F64
  os : F64
  ov : F64
  deriving DecidableEq, Repr

/-- Every stage fully bypassed (R740). -/
def Mixes.bypassed : Mixes := ⟨c1, c1, c1, c1, c1, c1, c1, c1, c1⟩

/-- A Tape delay line (R61, R357): `len` cells, held sparsely as R357 allows, the index of each cell that is not
0.0 with its value, indices strictly rising. -/
structure TapeLine where
  len : Nat
  cells : List (Nat × F64)
  deriving DecidableEq, Repr

/-- What an unlisted cell reads as: 0.0, the reset value of every cell (R60). -/
def TapeLine.blank : F64 := c0

/-- `len` cells of 0.0. -/
def TapeLine.clear (len : Nat) : TapeLine := ⟨len, []⟩

/-- The state of one Tape instance (R355-R362). -/
structure Tape where
  line : TapeLine
  w : Nat
  phase : F64
  rng : BitVec 32
  bump : Biquad
  bias : F64
  deriving DecidableEq, Repr

/-- A Tape instance after a reset of the channel (R60). -/
def Tape.reset (len : Nat) (phase : F64) (seed : BitVec 32) : Tape :=
  ⟨TapeLine.clear len, 0, phase, seed, Biquad.reset, c0⟩

/-- Whether Hard Clip clipped its last sample, and at which ceiling: `S[c].os.hard.clipped` in -1, 0, +1 (R366). -/
inductive Clipped where
  | neg
  | no
  | pos
  deriving DecidableEq, Repr

/-- The pre-input saturation state `S[c].pi` (R350, R353, R355). -/
structure PiSat where
  purePrev : F64
  tubePrev : F64
  tape : Tape
  deriving DecidableEq, Repr

/-- The out-stage saturation state `S[c].os` (R350, R353, R355, R366, R368). -/
structure OsSat where
  purePrev : F64
  tubePrev : F64
  tape : Tape
  hardClipped : Clipped
  softLast : F64
  deriving DecidableEq, Repr

/-- The filter memories `S[c].fl` (R406, R407). -/
structure Filters where
  hpf0 : Biquad
  hpf1 : Biquad
  lpf0 : Biquad
  lpf1 : Biquad
  deriving DecidableEq, Repr

/-- Control-Comp `S[c].cc` (R440). -/
structure ControlComp where
  env : F64
  gain : F64
  deriving DecidableEq, Repr

/-- Low-Dynamic `S[c].ld` (R450). -/
structure LowDynamic where
  ms : F64
  gdb : F64
  warm : Nat
  deriving DecidableEq, Repr

/-- A flip shelf (R492): two state banks and the flip bit, `false` for 0. -/
structure Shelf where
  bankA : Biquad
  bankB : Biquad
  flip : Bool
  deriving DecidableEq, Repr

/-- A shelf after a reset. -/
def Shelf.reset : Shelf := ⟨Biquad.reset, Biquad.reset, false⟩

/-- The equaliser `S[c].eq` (R490). -/
structure Equaliser where
  bass : Shelf
  treb : Shelf
  bell1 : Biquad
  bell2 : Biquad
  deriving DecidableEq, Repr

/-- Warm `S[c].sc.warm` (R535). -/
structure Warm where
  e1 : F64
  e2 : F64
  gain : F64
  deriving DecidableEq, Repr

/-- Punch `S[c].sc.punch` (R540). -/
structure Punch where
  env : F64
  gain : F64
  deriving DecidableEq, Repr

/-- Style-Comp `S[c].sc`. -/
structure StyleComp where
  warm : Warm
  punch : Punch
  deriving DecidableEq, Repr

/-- The Console `S[c].co` (R572, R574, R576, R577). -/
structure Console where
  purePrev : F64
  lpA : F64
  lpB : F64
  hpFlip : Bool
  h1 : F64
  h2 : F64
  rng : BitVec 32
  deriving DecidableEq, Repr

/-- The meters `M[c]` (R64, R65). -/
structure Meters where
  inpk : F64
  outpk : F64
  ccgr : F64
  ldgr : F64
  scgr : F64
  deriving DecidableEq, Repr

/-- Every meter 0.0. -/
def Meters.reset : Meters := ⟨c0, c0, c0, c0, c0⟩

/-- One channel engine: `S[c]` and `M[c]` (R60).  `epoch` is the model's own: it counts the channel's samples, so
that each NaN turned into bits is a free value of its own (R242). -/
structure ChanState where
  mix : Mixes
  pi : PiSat
  fl : Filters
  cc : ControlComp
  ld : LowDynamic
  eq : Equaliser
  sc : StyleComp
  co : Console
  os : OsSat
  m : Meters
  epoch : Nat
  deriving DecidableEq, Repr

/-- TAPE_PHASE0, TAPE_SEED and CO_SEED of a channel (R12). -/
def tapePhase0 (cfg : Params) : Chan → F64
  | .L => cfg.tapePhase0L
  | .R => cfg.tapePhase0R
def tapeSeedPi (cfg : Params) : Chan → BitVec 32
  | .L => cfg.tapeSeedPiL
  | .R => cfg.tapeSeedPiR
def tapeSeedOs (cfg : Params) : Chan → BitVec 32
  | .L => cfg.tapeSeedOsL
  | .R => cfg.tapeSeedOsR
def coSeed (cfg : Params) : Chan → BitVec 32
  | .L => cfg.coSeedL
  | .R => cfg.coSeedR

/-- A channel at the reset column of R60, with delay lines of `len` cells and the mixes given. -/
def ChanState.reset (cfg : Params) (c : Chan) (len : Nat) (mix : Mixes) (epoch : Nat) : ChanState where
  mix := mix
  pi := ⟨c0, c0, Tape.reset len (tapePhase0 cfg c) (tapeSeedPi cfg c)⟩
  fl := ⟨Biquad.reset, Biquad.reset, Biquad.reset, Biquad.reset⟩
  cc := ⟨c0, c1⟩
  ld := ⟨c0, c0, 0⟩
  eq := ⟨Shelf.reset, Shelf.reset, Biquad.reset, Biquad.reset⟩
  sc := ⟨⟨c0, c0, c1⟩, ⟨c0, c1⟩⟩
  co := ⟨c0, c0, c0, false, c0, c0, coSeed cfg c⟩
  os := ⟨c0, c0, Tape.reset len (tapePhase0 cfg c) (tapeSeedOs cfg c), .no, c0⟩
  m := Meters.reset
  epoch := epoch

/-! ### The ports -/

/-- The status of a response (R147). -/
inductive RespStatus where
  | ok
  | err
  deriving DecidableEq, Repr

/-- A response `(ST, RD)` (R147). -/
structure Response where
  st : RespStatus
  rd : Word
  deriving DecidableEq, Repr

/-- What the outside world does next: a command on the command port (R107, R140), a meter-port read of a bank-3
index (R108), or a power-on reset (R740). -/
inductive Event where
  | command (cw : CmdWord) (d : Word)
  | meterRead (idx : BitVec 6)
  | powerOn
  deriving DecidableEq, Repr

/-- The bank-3 registers that change (R53), as patterns; ID is a constant. -/
structure StatBank where
  status : Word
  sr : Word
  errCmd : Word
  inpkL : Word
  inpkR : Word
  outpkL : Word
  outpkR : Word
  ccgrL : Word
  ccgrR : Word
  ldgrL : Word
  ldgrR : Word
  scgrL : Word
  scgrR : Word
  deriving DecidableEq, Repr

/-! ### The state -/

/-- The state of the block. -/
structure State where
  /-- Bank 0, the shadow parameters (R47). -/
  shadow : ParamBank
  /-- Bank 1, the offsets of channel 0 (R51). -/
  ofsL : OfsBank
  /-- Bank 2, the offsets of channel 1 (R51). -/
  ofsR : OfsBank
  /-- `ACT`, the active register set (R45). -/
  act : ActiveSet
  /-- `SR`, the active sample rate, as its binary64 pattern (R43). -/
  sr : Word
  /-- `CONFIGURED` (R44). -/
  configured : Bool
  /-- STATUS[5:1], the sticky error bits (R63). -/
  errs : BitVec 5
  /-- ERRCMD (R53, R705). -/
  errCmd : Word
  /-- Channel engine 0 (R60). -/
  chL : ChanState
  /-- Channel engine 1 (R60). -/
  chR : ChanState
  /-- The model's own: what the outside world does next, the first of the list first. -/
  port : List Event
  /-- The model's own: the response of the last command; none before the first (R147). -/
  resp : Option Response
  /-- The model's own: the word the last meter-port read returned. -/
  meterResp : Option Word
  /-- The model's own: bank 3 at every command boundary before the present one, the latest first (R108). -/
  history : List StatBank
  /-- The model's own: for each bank-3 index the boundary the last meter-port read of it returned (R108). -/
  seen : Vector Nat 64
  /-- The model's own: for each bank-3 index how many meter-port reads of it there were, the argument of the free value
  `meterLag`. -/
  meterReads : Vector Nat 64
  deriving DecidableEq, Repr

/-- The parameters of this machine: the reference instance (R12). -/
def params : Params := defaults

/-- The state after power-on reset (R740), for a parameter instance. -/
def State.powerOn (cfg : Params) : State where
  shadow := ParamBank.reset
  ofsL := OfsBank.reset
  ofsR := OfsBank.reset
  act := ActiveSet.reset
  sr := 0
  configured := false
  errs := 0
  errCmd := 0
  chL := ChanState.reset cfg .L (tapeBuf cfg c0) Mixes.bypassed 0
  chR := ChanState.reset cfg .R (tapeBuf cfg c0) Mixes.bypassed 0
  port := []
  resp := none
  meterResp := none
  history := []
  seen := Vector.replicate 64 0
  meterReads := Vector.replicate 64 0

/-- The machine right after reset (R740). -/
def State.reset : State := State.powerOn params

/-- The reasons a step stops with a fault: none.  The block has no traps and no fault (R707, R709), it "never stops
by itself" (R210), and every address and command word it can be given has an answer (R146, R701), so there is no
constructor and no step of this machine can be a fault. -/
inductive Fault where
  deriving DecidableEq, Repr

/-- The reasons a step is refused. -/
inductive Refusal where
  /-- An instruction of the opcode table that has no meaning yet; raised by `exec`'s arms only.  Safe: nothing can
  be proved of what it does.  No arm of this machine raises it. -/
  | notModelled (mnemonic : String)
  deriving DecidableEq, Repr

end Sys2Proof.Machine
end

