-- ==== Sys2Proof/Machine/Flags.lean ====
section
/-!
DEFINITION. The status bits of the block (spec/10_state.md R42, R63; spec/60_exceptions.md R700-R704).  The block has
no condition codes: STATUS is the live CFG bit and five sticky error bits.
-/

namespace Sys2Proof.Machine

/-- The five command errors (R700-R704). -/
inductive CmdError where
  | badCmd
  | badReg
  | badVal
  | srRej
  | notCfg
  deriving DecidableEq, Repr

/-- The cause code of an error, which is also its bit in STATUS. -/
def CmdError.code : CmdError → Nat
  | .badCmd => 1
  | .badReg => 2
  | .badVal => 3
  | .srRej => 4
  | .notCfg => 5

/-- The bit of an error within STATUS[5:1]. -/
def CmdError.bit (e : CmdError) : BitVec 5 := 1#5 <<< (e.code - 1)

/-- STATUS[5:1] after an error: its bit set, the others kept (R705). -/
def setError (errs : BitVec 5) (e : CmdError) : BitVec 5 := errs ||| e.bit

/-- STATUS[5:1] after a write of `v` to STATUS: each bit whose bit in `v` is 1 cleared (R63, R202). -/
def clearErrors (errs : BitVec 5) (v : Word) : BitVec 5 := errs &&& ~~~(v.extractLsb' 1 5)

/-- What STATUS reads (R63, R203): bits [63:6] zero, the error bits, and CFG in bit 0. -/
def statusWord (errs : BitVec 5) (configured : Bool) : Word := 0#58 ++ (errs ++ BitVec.ofBool configured)

end Sys2Proof.Machine
end

