-- ==== Sys2Proof/Machine/Operands.lean ====
section
/-!
DEFINITION. The operands of the commands: the register map (spec/10_state.md R47, R51, R53; 40_commands.md R204),
which values a register accepts (R46, R48, R49, R52), and the effective parameters SMP reads (R57).
-/

namespace Sys2Proof.Machine

open Config

/-! ### Names of the registers -/

/-- The registers of bank 0 (R47). -/
inductive PReg where
  | piBypass
  | piAlgo
  | piDrive
  | flBypass
  | hpfFreq
  | hpfSlope
  | hpfQmode
  | lpfFreq
  | lpfSlope
  | lpfQmode
  | ccBypass
  | ccMode
  | ccThresh
  | ldBypass
  | ldRatio
  | ldThresh
  | eqBypass
  | eqBassGain
  | eqBassFreq
  | eqB1Gain
  | eqB1Fidx
  | eqB2Gain
  | eqB2Fidx
  | eqTrebGain
  | eqTrebFreq
  | scBypass
  | scAlgo
  | scIn
  | scMakeup
  | scMix
  | coBypass
  | coProfile
  | osBypass
  | osAlgo
  | osDrive
  | ovBypass
  | ovGain
  deriving DecidableEq, Repr

/-- The registers of bank 1 and of bank 2 (R51). -/
inductive OReg where
  | piDriveOfs
  | hpfFreqOfs
  | lpfFreqOfs
  | ccThreshOfs
  | ldThreshOfs
  | eqBassGainOfs
  | eqBassFreqOfs
  | eqB1GainOfs
  | eqB2GainOfs
  | eqTrebGainOfs
  | eqTrebFreqOfs
  | scInOfs
  | scMakeupOfs
  | osDriveOfs
  | ovGainOfs
  | hpfQofs
  | lpfQofs
  | b1Qofs
  | b2Qofs
  deriving DecidableEq, Repr

/-- The registers of bank 3 (R53); a meter is named with its channel (R66). -/
inductive SReg where
  | id
  | status
  | sr
  | errCmd
  | inpk (c : Chan)
  | outpk (c : Chan)
  | ccgr (c : Chan)
  | ldgr (c : Chan)
  | scgr (c : Chan)
  deriving DecidableEq, Repr

/-- The kind of a register the host writes (R46): a flag, an enumeration with codes `0 .. codes - 1`, a real
parameter, or an offset. -/
inductive Kind where
  | flag
  | enum (codes : Nat)
  | param
  | offset
  deriving DecidableEq, Repr

/-- Whether a register of the kind accepts the value (R46, R48, R49, R52). -/
def Kind.accepts : Kind → Word → Bool
  | .flag, d => decide (d.toNat < 2)
  | .enum n, d => decide (d.toNat < n)
  | .param, d => !(real d).isNaN
  | .offset, d => (real d).isFinite

/-! ### Indices and kinds -/

/-- The idx column of R47. -/
def PReg.idx : PReg → BitVec 6
  | .piBypass => 0x00
  | .piAlgo => 0x01
  | .piDrive => 0x02
  | .flBypass => 0x08
  | .hpfFreq => 0x09
  | .hpfSlope => 0x0A
  | .hpfQmode => 0x0B
  | .lpfFreq => 0x0C
  | .lpfSlope => 0x0D
  | .lpfQmode => 0x0E
  | .ccBypass => 0x10
  | .ccMode => 0x11
  | .ccThresh => 0x12
  | .ldBypass => 0x14
  | .ldRatio => 0x15
  | .ldThresh => 0x16
  | .eqBypass => 0x18
  | .eqBassGain => 0x19
  | .eqBassFreq => 0x1A
  | .eqB1Gain => 0x1B
  | .eqB1Fidx => 0x1C
  | .eqB2Gain => 0x1D
  | .eqB2Fidx => 0x1E
  | .eqTrebGain => 0x1F
  | .eqTrebFreq => 0x20
  | .scBypass => 0x24
  | .scAlgo => 0x25
  | .scIn => 0x26
  | .scMakeup => 0x27
  | .scMix => 0x28
  | .coBypass => 0x2C
  | .coProfile => 0x2D
  | .osBypass => 0x30
  | .osAlgo => 0x31
  | .osDrive => 0x32
  | .ovBypass => 0x38
  | .ovGain => 0x39

/-- The kind and legal-code columns of R47. -/
def PReg.kind : PReg → Kind
  | .piBypass => .flag
  | .piAlgo => .enum 4
  | .piDrive => .param
  | .flBypass => .flag
  | .hpfFreq => .param
  | .hpfSlope => .enum 2
  | .hpfQmode => .enum 2
  | .lpfFreq => .param
  | .lpfSlope => .enum 2
  | .lpfQmode => .enum 2
  | .ccBypass => .flag
  | .ccMode => .enum 2
  | .ccThresh => .param
  | .ldBypass => .flag
  | .ldRatio => .param
  | .ldThresh => .param
  | .eqBypass => .flag
  | .eqBassGain => .param
  | .eqBassFreq => .param
  | .eqB1Gain => .param
  | .eqB1Fidx => .enum 15
  | .eqB2Gain => .param
  | .eqB2Fidx => .enum 15
  | .eqTrebGain => .param
  | .eqTrebFreq => .param
  | .scBypass => .flag
  | .scAlgo => .enum 2
  | .scIn => .param
  | .scMakeup => .param
  | .scMix => .param
  | .coBypass => .flag
  | .coProfile => .enum 5
  | .osBypass => .flag
  | .osAlgo => .enum 6
  | .osDrive => .param
  | .ovBypass => .flag
  | .ovGain => .param

/-- The bank as a list, in the order of R47. -/
def PReg.all : List PReg :=
  [.piBypass, .piAlgo, .piDrive, .flBypass, .hpfFreq, .hpfSlope, .hpfQmode, .lpfFreq,
   .lpfSlope, .lpfQmode, .ccBypass, .ccMode, .ccThresh, .ldBypass, .ldRatio, .ldThresh,
   .eqBypass, .eqBassGain, .eqBassFreq, .eqB1Gain, .eqB1Fidx, .eqB2Gain, .eqB2Fidx, .eqTrebGain,
   .eqTrebFreq, .scBypass, .scAlgo, .scIn, .scMakeup, .scMix, .coBypass, .coProfile,
   .osBypass, .osAlgo, .osDrive, .ovBypass, .ovGain]

/-- The register of bank 0 at an index, if R47 lists one. -/
def PReg.ofIdx (i : BitVec 6) : Option PReg := PReg.all.find? fun r => r.idx == i

/-- The idx column of R51. -/
def OReg.idx : OReg → BitVec 6
  | .piDriveOfs => 0x02
  | .hpfFreqOfs => 0x09
  | .lpfFreqOfs => 0x0C
  | .ccThreshOfs => 0x12
  | .ldThreshOfs => 0x16
  | .eqBassGainOfs => 0x19
  | .eqBassFreqOfs => 0x1A
  | .eqB1GainOfs => 0x1B
  | .eqB2GainOfs => 0x1D
  | .eqTrebGainOfs => 0x1F
  | .eqTrebFreqOfs => 0x20
  | .scInOfs => 0x26
  | .scMakeupOfs => 0x27
  | .osDriveOfs => 0x32
  | .ovGainOfs => 0x39
  | .hpfQofs => 0x3C
  | .lpfQofs => 0x3D
  | .b1Qofs => 0x3E
  | .b2Qofs => 0x3F

/-- The bank as a list, in the order of R51. -/
def OReg.all : List OReg :=
  [.piDriveOfs, .hpfFreqOfs, .lpfFreqOfs, .ccThreshOfs, .ldThreshOfs, .eqBassGainOfs,
   .eqBassFreqOfs, .eqB1GainOfs, .eqB2GainOfs, .eqTrebGainOfs, .eqTrebFreqOfs, .scInOfs,
   .scMakeupOfs, .osDriveOfs, .ovGainOfs, .hpfQofs, .lpfQofs, .b1Qofs,
   .b2Qofs]

/-- The register of bank 1 or 2 at an index, if R51 lists one. -/
def OReg.ofIdx (i : BitVec 6) : Option OReg := OReg.all.find? fun r => r.idx == i

/-- 0 for the left channel and 1 for the right (R12, R715). -/
def chanNum : Chan → Nat
  | .L => 0
  | .R => 1

/-- The idx column of R53; a meter of channel `c` is at its base plus `c` (R66). -/
def SReg.idx : SReg → BitVec 6
  | .id => 0x00
  | .status => 0x01
  | .sr => 0x02
  | .errCmd => 0x03
  | .inpk c => 0x08 + BitVec.ofNat 6 (chanNum c)
  | .outpk c => 0x0A + BitVec.ofNat 6 (chanNum c)
  | .ccgr c => 0x0C + BitVec.ofNat 6 (chanNum c)
  | .ldgr c => 0x0E + BitVec.ofNat 6 (chanNum c)
  | .scgr c => 0x10 + BitVec.ofNat 6 (chanNum c)

/-- The bank as a list, in the order of R53. -/
def SReg.all : List SReg :=
  [.id, .status, .sr, .errCmd, .inpk .L, .inpk .R, .outpk .L, .outpk .R, .ccgr .L, .ccgr .R, .ldgr .L, .ldgr .R,
   .scgr .L, .scgr .R]

/-- The register of bank 3 at an index, if R53 lists one. -/
def SReg.ofIdx (i : BitVec 6) : Option SReg := SReg.all.find? fun r => r.idx == i

/-! ### Register addresses -/

/-- A register of the address space of R101. -/
inductive RegName where
  | param (r : PReg)
  | ofs (c : Chan) (r : OReg)
  | stat (r : SReg)
  deriving DecidableEq, Repr

/-- The register an address names.  `EXISTS(b, i)` (R204) is that there is one. -/
def regName (bank : BitVec 2) (idx : BitVec 6) : Option RegName :=
  if bank = 0 then (PReg.ofIdx idx).map .param
  else if bank = 1 then (OReg.ofIdx idx).map (.ofs .L)
  else if bank = 2 then (OReg.ofIdx idx).map (.ofs .R)
  else (SReg.ofIdx idx).map .stat

/-- The bank of a register (R101). -/
def RegName.bank : RegName → BitVec 2
  | .param _ => 0
  | .ofs .L _ => 1
  | .ofs .R _ => 2
  | .stat _ => 3

/-- The index of a register within its bank. -/
def RegName.idx : RegName → BitVec 6
  | .param r => r.idx
  | .ofs _ r => r.idx
  | .stat r => r.idx

/-! ### Reading and writing one register of a bank -/

/-- The register `r` of the bank. -/
def ParamBank.get (b : ParamBank) : PReg → Word
  | .piBypass => b.piBypass
  | .piAlgo => b.piAlgo
  | .piDrive => b.piDrive
  | .flBypass => b.flBypass
  | .hpfFreq => b.hpfFreq
  | .hpfSlope => b.hpfSlope
  | .hpfQmode => b.hpfQmode
  | .lpfFreq => b.lpfFreq
  | .lpfSlope => b.lpfSlope
  | .lpfQmode => b.lpfQmode
  | .ccBypass => b.ccBypass
  | .ccMode => b.ccMode
  | .ccThresh => b.ccThresh
  | .ldBypass => b.ldBypass
  | .ldRatio => b.ldRatio
  | .ldThresh => b.ldThresh
  | .eqBypass => b.eqBypass
  | .eqBassGain => b.eqBassGain
  | .eqBassFreq => b.eqBassFreq
  | .eqB1Gain => b.eqB1Gain
  | .eqB1Fidx => b.eqB1Fidx
  | .eqB2Gain => b.eqB2Gain
  | .eqB2Fidx => b.eqB2Fidx
  | .eqTrebGain => b.eqTrebGain
  | .eqTrebFreq => b.eqTrebFreq
  | .scBypass => b.scBypass
  | .scAlgo => b.scAlgo
  | .scIn => b.scIn
  | .scMakeup => b.scMakeup
  | .scMix => b.scMix
  | .coBypass => b.coBypass
  | .coProfile => b.coProfile
  | .osBypass => b.osBypass
  | .osAlgo => b.osAlgo
  | .osDrive => b.osDrive
  | .ovBypass => b.ovBypass
  | .ovGain => b.ovGain

/-- The bank with register `r` at `v`. -/
def ParamBank.set (b : ParamBank) (r : PReg) (v : Word) : ParamBank :=
  match r with
  | .piBypass => { b with piBypass := v }
  | .piAlgo => { b with piAlgo := v }
  | .piDrive => { b with piDrive := v }
  | .flBypass => { b with flBypass := v }
  | .hpfFreq => { b with hpfFreq := v }
  | .hpfSlope => { b with hpfSlope := v }
  | .hpfQmode => { b with hpfQmode := v }
  | .lpfFreq => { b with lpfFreq := v }
  | .lpfSlope => { b with lpfSlope := v }
  | .lpfQmode => { b with lpfQmode := v }
  | .ccBypass => { b with ccBypass := v }
  | .ccMode => { b with ccMode := v }
  | .ccThresh => { b with ccThresh := v }
  | .ldBypass => { b with ldBypass := v }
  | .ldRatio => { b with ldRatio := v }
  | .ldThresh => { b with ldThresh := v }
  | .eqBypass => { b with eqBypass := v }
  | .eqBassGain => { b with eqBassGain := v }
  | .eqBassFreq => { b with eqBassFreq := v }
  | .eqB1Gain => { b with eqB1Gain := v }
  | .eqB1Fidx => { b with eqB1Fidx := v }
  | .eqB2Gain => { b with eqB2Gain := v }
  | .eqB2Fidx => { b with eqB2Fidx := v }
  | .eqTrebGain => { b with eqTrebGain := v }
  | .eqTrebFreq => { b with eqTrebFreq := v }
  | .scBypass => { b with scBypass := v }
  | .scAlgo => { b with scAlgo := v }
  | .scIn => { b with scIn := v }
  | .scMakeup => { b with scMakeup := v }
  | .scMix => { b with scMix := v }
  | .coBypass => { b with coBypass := v }
  | .coProfile => { b with coProfile := v }
  | .osBypass => { b with osBypass := v }
  | .osAlgo => { b with osAlgo := v }
  | .osDrive => { b with osDrive := v }
  | .ovBypass => { b with ovBypass := v }
  | .ovGain => { b with ovGain := v }

/-- The register `r` of the bank. -/
def OfsBank.get (b : OfsBank) : OReg → Word
  | .piDriveOfs => b.piDriveOfs
  | .hpfFreqOfs => b.hpfFreqOfs
  | .lpfFreqOfs => b.lpfFreqOfs
  | .ccThreshOfs => b.ccThreshOfs
  | .ldThreshOfs => b.ldThreshOfs
  | .eqBassGainOfs => b.eqBassGainOfs
  | .eqBassFreqOfs => b.eqBassFreqOfs
  | .eqB1GainOfs => b.eqB1GainOfs
  | .eqB2GainOfs => b.eqB2GainOfs
  | .eqTrebGainOfs => b.eqTrebGainOfs
  | .eqTrebFreqOfs => b.eqTrebFreqOfs
  | .scInOfs => b.scInOfs
  | .scMakeupOfs => b.scMakeupOfs
  | .osDriveOfs => b.osDriveOfs
  | .ovGainOfs => b.ovGainOfs
  | .hpfQofs => b.hpfQofs
  | .lpfQofs => b.lpfQofs
  | .b1Qofs => b.b1Qofs
  | .b2Qofs => b.b2Qofs

/-- The bank with register `r` at `v`. -/
def OfsBank.set (b : OfsBank) (r : OReg) (v : Word) : OfsBank :=
  match r with
  | .piDriveOfs => { b with piDriveOfs := v }
  | .hpfFreqOfs => { b with hpfFreqOfs := v }
  | .lpfFreqOfs => { b with lpfFreqOfs := v }
  | .ccThreshOfs => { b with ccThreshOfs := v }
  | .ldThreshOfs => { b with ldThreshOfs := v }
  | .eqBassGainOfs => { b with eqBassGainOfs := v }
  | .eqBassFreqOfs => { b with eqBassFreqOfs := v }
  | .eqB1GainOfs => { b with eqB1GainOfs := v }
  | .eqB2GainOfs => { b with eqB2GainOfs := v }
  | .eqTrebGainOfs => { b with eqTrebGainOfs := v }
  | .eqTrebFreqOfs => { b with eqTrebFreqOfs := v }
  | .scInOfs => { b with scInOfs := v }
  | .scMakeupOfs => { b with scMakeupOfs := v }
  | .osDriveOfs => { b with osDriveOfs := v }
  | .ovGainOfs => { b with ovGainOfs := v }
  | .hpfQofs => { b with hpfQofs := v }
  | .lpfQofs => { b with lpfQofs := v }
  | .b1Qofs => { b with b1Qofs := v }
  | .b2Qofs => { b with b2Qofs := v }

/-- The offsets of a channel in the active set. -/
def ActiveSet.ofs (a : ActiveSet) : Chan → OfsBank
  | .L => a.ofsL
  | .R => a.ofsR

/-! ### The nine stages (R290) -/

/-- The stages of the chain, in order. -/
inductive Stage where
  | pi
  | fl
  | cc
  | ld
  | eq
  | sc
  | co
  | os
  | ov
  deriving DecidableEq, Repr

/-- The bypass register of a stage (R290). -/
def Stage.bypass : Stage → PReg
  | .pi => .piBypass
  | .fl => .flBypass
  | .cc => .ccBypass
  | .ld => .ldBypass
  | .eq => .eqBypass
  | .sc => .scBypass
  | .co => .coBypass
  | .os => .osBypass
  | .ov => .ovBypass

/-- The crossfade mix of a stage. -/
def Mixes.get (m : Mixes) : Stage → F64
  | .pi => m.pi
  | .fl => m.fl
  | .cc => m.cc
  | .ld => m.ld
  | .eq => m.eq
  | .sc => m.sc
  | .co => m.co
  | .os => m.os
  | .ov => m.ov

/-- The mixes with one changed. -/
def Mixes.set (m : Mixes) (k : Stage) (v : F64) : Mixes :=
  match k with
  | .pi => { m with pi := v }
  | .fl => { m with fl := v }
  | .cc => { m with cc := v }
  | .ld => { m with ld := v }
  | .eq => { m with eq := v }
  | .sc => { m with sc := v }
  | .co => { m with co := v }
  | .os => { m with os := v }
  | .ov => { m with ov := v }

/-! ### Effective parameters (R57) -/

/-- The offset register of a parameter: the ofs column of R47. -/
def PReg.ofs : PReg → Option OReg
  | .piBypass => none
  | .piAlgo => none
  | .piDrive => some .piDriveOfs
  | .flBypass => none
  | .hpfFreq => some .hpfFreqOfs
  | .hpfSlope => none
  | .hpfQmode => none
  | .lpfFreq => some .lpfFreqOfs
  | .lpfSlope => none
  | .lpfQmode => none
  | .ccBypass => none
  | .ccMode => none
  | .ccThresh => some .ccThreshOfs
  | .ldBypass => none
  | .ldRatio => none
  | .ldThresh => some .ldThreshOfs
  | .eqBypass => none
  | .eqBassGain => some .eqBassGainOfs
  | .eqBassFreq => some .eqBassFreqOfs
  | .eqB1Gain => some .eqB1GainOfs
  | .eqB1Fidx => none
  | .eqB2Gain => some .eqB2GainOfs
  | .eqB2Fidx => none
  | .eqTrebGain => some .eqTrebGainOfs
  | .eqTrebFreq => some .eqTrebFreqOfs
  | .scBypass => none
  | .scAlgo => none
  | .scIn => some .scInOfs
  | .scMakeup => some .scMakeupOfs
  | .scMix => none
  | .coBypass => none
  | .coProfile => none
  | .osBypass => none
  | .osAlgo => none
  | .osDrive => some .osDriveOfs
  | .ovBypass => none
  | .ovGain => some .ovGainOfs

/-- The clamp range of an X parameter at the rate `sr`: the clamp-range column of R47. -/
def PReg.range (cfg : Params) (sr : F64) : PReg → Option (F64 × F64)
  | .piBypass => none
  | .piAlgo => none
  | .piDrive => some (cfg.driveMinDb, cfg.driveMaxDb)
  | .flBypass => none
  | .hpfFreq => some (fMinHz, fMaxFrac.mul sr)
  | .hpfSlope => none
  | .hpfQmode => none
  | .lpfFreq => some (fMinHz, fMaxFrac.mul sr)
  | .lpfSlope => none
  | .lpfQmode => none
  | .ccBypass => none
  | .ccMode => none
  | .ccThresh => some ((F64.ofNat 60).neg, c0)
  | .ldBypass => none
  | .ldRatio => some (c1.neg, c1)
  | .ldThresh => some ((F64.ofNat 80).neg, c0)
  | .eqBypass => none
  | .eqBassGain => some (cfg.eqGainMax.neg, cfg.eqGainMax)
  | .eqBassFreq => some (fMinHz, F64.min (F64.ofNat 1000) ((fMaxFrac.mul sr).div cfg.shelfDiv))
  | .eqB1Gain => some (cfg.eqGainMax.neg, cfg.eqGainMax)
  | .eqB1Fidx => none
  | .eqB2Gain => some (cfg.eqGainMax.neg, cfg.eqGainMax)
  | .eqB2Fidx => none
  | .eqTrebGain => some (cfg.eqGainMax.neg, cfg.eqGainMax)
  | .eqTrebFreq => some (F64.ofNat 1000, F64.min (F64.ofNat 20000) ((fMaxFrac.mul sr).div cfg.shelfDiv))
  | .scBypass => none
  | .scAlgo => none
  | .scIn => some ((F64.ofNat 18).neg, F64.ofNat 60)
  | .scMakeup => some ((F64.ofNat 6).neg, F64.ofNat 24)
  | .scMix => some (c0, F64.ofNat 100)
  | .coBypass => none
  | .coProfile => none
  | .osBypass => none
  | .osAlgo => none
  | .osDrive => some (cfg.driveMinDb, cfg.driveMaxDb)
  | .ovBypass => none
  | .ovGain => some (cfg.ovMinDb, cfg.ovMaxDb)

/-- What a kernel step reads besides its channel's state: the parameter instance, `SR`, `ACT` and the channel. -/
structure Env where
  cfg : Params
  sr : F64
  act : ActiveSet
  chan : Chan

/-- `ACT.n` of an F or E parameter, which is `P[c].n` (R57). -/
def Env.code (e : Env) (n : PReg) : Nat := (e.act.param.get n).toNat

/-- `ACT.OFS[c].n` of an offset register, which the Q rules read as it is (R57). -/
def Env.ofs (e : Env) (r : OReg) : F64 := real ((e.act.ofs e.chan).get r)

/-- `P[c].n` of an X parameter (R57): active value plus channel offset, clamped.  (A parameter without a clamp range
is an F or E parameter; the kernels read those with `Env.code`.) -/
def Env.p (e : Env) (n : PReg) : F64 :=
  let a := real (e.act.param.get n)
  let v := match n.ofs with
    | some r => a.add (e.ofs r)
    | none => a
  match n.range e.cfg e.sr with
  | some (lo, hi) => F64.clamp v lo hi
  | none => v

/-- The bypass target of a stage (R291): 1.0 when its active bypass flag is 1, else 0.0. -/
def bypassTarget (act : ActiveSet) (k : Stage) : F64 :=
  if act.param.get k.bypass = 1 then c1 else c0

end Sys2Proof.Machine
end

