-- ==== Sys2Proof/Machine/Ops.lean ====
section
/-!
DEFINITION. The named operations of the block: register access (spec/20_memory.md), the common error path
(spec/60_exceptions.md R705), the Tape delay line (spec/43_saturation.md R357), reset of the channels
(spec/70_reset_and_hazards.md R741), the latch (spec/40_commands.md R207) and the meter port (R108).
-/

namespace Sys2Proof.Machine

open Config

/-! ### Responses and the common error path -/

/-- A command's response on the port (R147). -/
def State.respond (s : State) (r : Response) : State := { s with resp := some r }

/-- `(OK, rd)`. -/
def State.ok (s : State) (rd : Word) : State := s.respond ⟨.ok, rd⟩

/-- The common error path of R705, which is all the block has for taking an exception (R709): the bit in STATUS,
the command word in ERRCMD, the response `(ERR, 0)`, and nothing else. -/
def State.raise (s : State) (e : CmdError) (cw : CmdWord) : State :=
  { s with errs := setError s.errs e, errCmd := cw.setWidth 64, resp := some ⟨.err, 0⟩ }

/-! ### Channels -/

/-- Channel engine `c`. -/
def State.chan (s : State) : Chan → ChanState
  | .L => s.chL
  | .R => s.chR

/-- The state with channel engine `c` at `x`. -/
def State.setChan (s : State) (c : Chan) (x : ChanState) : State :=
  match c with
  | .L => { s with chL := x }
  | .R => { s with chR := x }

/-! ### The register space -/

/-- Bank 1 or bank 2. -/
def State.ofs (s : State) : Chan → OfsBank
  | .L => s.ofsL
  | .R => s.ofsR

/-- The state with offset register `r` of channel `c` at `v`. -/
def State.setOfs (s : State) (c : Chan) (r : OReg) (v : Word) : State :=
  match c with
  | .L => { s with ofsL := s.ofsL.set r v }
  | .R => { s with ofsR := s.ofsR.set r v }

/-- The state with parameter register `r` at `v`. -/
def State.setParam (s : State) (r : PReg) (v : Word) : State := { s with shadow := s.shadow.set r v }

/-- The state with STATUS[5:1] cleared where `v` has ones (R63). -/
def State.clearStatus (s : State) (v : Word) : State := { s with errs := clearErrors s.errs v }

/-- ID reads this for ever (R2, R62). -/
def idWord : Word := 0x0000000041430007

/-- Which register or response shows a NaN: the third argument of `nanBits`. -/
def slotResponse : Nat := 0
def slotInpk : Nat := 1
def slotOutpk : Nat := 2
def slotCcgr : Nat := 3
def slotLdgr : Nat := 4
def slotScgr : Nat := 5

/-- The pattern of a real shown by channel `c` (R15, R242): a NaN has a free pattern, the same until the channel's
next sample. -/
def showReal (c : Chan) (epoch slot : Nat) (v : F64) : Word := bits64 (nanBits (chanNum c) epoch slot) v

/-- The pattern of a meter of channel `c` (R66). -/
def meterWord (c : Chan) (x : ChanState) (slot : Nat) (v : F64) : Word := showReal c x.epoch slot v

/-- Bank 3 as it reads now. -/
def State.statBank (s : State) : StatBank where
  status := statusWord s.errs s.configured
  sr := s.sr
  errCmd := s.errCmd
  inpkL := meterWord .L s.chL slotInpk s.chL.m.inpk
  inpkR := meterWord .R s.chR slotInpk s.chR.m.inpk
  outpkL := meterWord .L s.chL slotOutpk s.chL.m.outpk
  outpkR := meterWord .R s.chR slotOutpk s.chR.m.outpk
  ccgrL := meterWord .L s.chL slotCcgr s.chL.m.ccgr
  ccgrR := meterWord .R s.chR slotCcgr s.chR.m.ccgr
  ldgrL := meterWord .L s.chL slotLdgr s.chL.m.ldgr
  ldgrR := meterWord .R s.chR slotLdgr s.chR.m.ldgr
  scgrL := meterWord .L s.chL slotScgr s.chL.m.scgr
  scgrR := meterWord .R s.chR slotScgr s.chR.m.scgr

/-- A register of bank 3 (R53). -/
def StatBank.get (b : StatBank) : SReg → Word
  | .id => idWord
  | .status => b.status
  | .sr => b.sr
  | .errCmd => b.errCmd
  | .inpk .L => b.inpkL
  | .inpk .R => b.inpkR
  | .outpk .L => b.outpkL
  | .outpk .R => b.outpkR
  | .ccgr .L => b.ccgrL
  | .ccgr .R => b.ccgrR
  | .ldgr .L => b.ldgrL
  | .ldgr .R => b.ldgrR
  | .scgr .L => b.scgrL
  | .scgr .R => b.scgrR

/-- `RegRead` of a register that exists (R203): banks 0 to 2 read the shadow value (R55). -/
def State.regRead (s : State) : RegName → Word
  | .param r => s.shadow.get r
  | .ofs c r => (s.ofs c).get r
  | .stat r => s.statBank.get r

/-- `RegWrite` of a register that exists (R202): the state after an accepted write, or the error. -/
def State.regWrite (s : State) (n : RegName) (d : Word) : Except CmdError State :=
  match n with
  | .param r => if r.kind.accepts d then .ok (s.setParam r d) else .error .badVal
  | .ofs c r => if Kind.offset.accepts d then .ok (s.setOfs c r d) else .error .badVal
  | .stat .status => .ok (s.clearStatus d)
  | .stat _ => .error .badReg

/-! ### The Tape delay line (R357, R358) -/

/-- The value listed for a cell, or what an unlisted one reads as. -/
def readCells : List (Nat × F64) → Nat → F64
  | [], _ => TapeLine.blank
  | (a, v) :: rest, i => if a = i then v else readCells rest i

/-- The cells with cell `i` at `v`, the canonical form kept: a blank value is not listed. -/
def writeCells : List (Nat × F64) → Nat → F64 → List (Nat × F64)
  | [], i, v => if v = TapeLine.blank then [] else [(i, v)]
  | (a, x) :: rest, i, v =>
    if i < a then (if v = TapeLine.blank then (a, x) :: rest else (i, v) :: (a, x) :: rest)
    else if i = a then (if v = TapeLine.blank then rest else (i, v) :: rest)
    else (a, x) :: writeCells rest i v

/-- `buf[i]`. -/
def TapeLine.read (l : TapeLine) (i : Nat) : F64 := readCells l.cells i

/-- `buf[i] <- v`. -/
def TapeLine.write (l : TapeLine) (i : Nat) (v : F64) : TapeLine := { l with cells := writeCells l.cells i v }

/-- The canonical form: indices strictly rising and below the length, and no listed cell blank. -/
abbrev TapeLine.wf (l : TapeLine) : Prop :=
  l.cells.Pairwise (fun p q => p.1 < q.1) ∧ ∀ p ∈ l.cells, p.1 < l.len ∧ p.2 ≠ TapeLine.blank

/-- `a mod L` (R248), never negative for `L >= 1`. -/
def modIndex (a : Int) (len : Nat) : Nat := (a % (len : Int)).toNat

/-! ### Reset of the channels, and the latch -/

/-- Every mix at its latched target (R741). -/
def targetMixes (act : ActiveSet) : Mixes where
  pi := bypassTarget act .pi
  fl := bypassTarget act .fl
  cc := bypassTarget act .cc
  ld := bypassTarget act .ld
  eq := bypassTarget act .eq
  sc := bypassTarget act .sc
  co := bypassTarget act .co
  os := bypassTarget act .os
  ov := bypassTarget act .ov

/-- `RESET_CHANNELS()` (R741), for a parameter instance.  Run twice in a row it leaves what one run leaves, as R741's
pseudocode does, though R106 calls RESET not idempotent (DEDUCED, notes/assumptions/22.md). -/
def State.resetChannels (cfg : Params) (s : State) : State :=
  let len := tapeBuf cfg (real s.sr)
  { s with
    chL := ChanState.reset cfg .L len (targetMixes s.act) s.chL.epoch
    chR := ChanState.reset cfg .R len (targetMixes s.act) s.chR.epoch }

/-- A channel with its peak meters at 0.0 (R207). -/
def ChanState.clearPeaks (x : ChanState) : ChanState := { x with m := { x.m with inpk := c0, outpk := c0 } }

/-- BLOCK's latch (R207): banks 0, 1 and 2 into `ACT`, and the peak meters cleared.  Run twice in a row it leaves what one
run leaves, as R207's pseudocode does, though R106 calls BLOCK not idempotent (DEDUCED, notes/assumptions/22.md). -/
def State.latch (s : State) : State :=
  { s with act := ⟨s.shadow, s.ofsL, s.ofsR⟩, chL := s.chL.clearPeaks, chR := s.chR.clearPeaks }

/-! ### The meter port (R108-R110) -/

/-- Bank 3 as it stands is kept as the boundary before the next command (R108). -/
def State.pushBoundary (s : State) : State := { s with history := s.statBank :: s.history }

/-- Bank 3 at command boundary `k`, counted from power-on; the present one is boundary `history.length`. -/
def State.boundary (s : State) (k : Nat) : StatBank :=
  if s.history.length ≤ k then s.statBank else s.history.getD (s.history.length - 1 - k) s.statBank

/-- The boundary a meter-port read of `idx` returns: any one not before the last read of `idx` and not after the
present (R108), settled by `lag`. -/
def State.meterBoundary (s : State) (lag : Nat → Nat → Nat) (idx : BitVec 6) : Nat :=
  s.seen[idx.toNat] + lag idx.toNat s.meterReads[idx.toNat] % (s.history.length - s.seen[idx.toNat] + 1)

/-- A meter-port read (R108, R110), for any `lag`: a reserved index reads 0, no error is recorded, and nothing a
command can see changes. -/
def State.meterReadWith (s : State) (lag : Nat → Nat → Nat) (idx : BitVec 6) : State :=
  { s with
    meterResp := some (match SReg.ofIdx idx with
      | some r => (s.boundary (s.meterBoundary lag idx)).get r
      | none => 0)
    seen := s.seen.set idx.toNat (s.meterBoundary lag idx)
    meterReads := s.meterReads.set idx.toNat (s.meterReads[idx.toNat] + 1) }

/-- A meter-port read of this machine: how far behind it is, is free. -/
def State.meterRead (s : State) (idx : BitVec 6) : State := s.meterReadWith meterLag idx

end Sys2Proof.Machine
end

