-- ==== Sys2Proof/Machine/Saturation.lean ====
section
/-!
DEFINITION. The saturation stages PI and OS (spec/43_saturation.md).
-/

namespace Sys2Proof.Machine

open Config

/-- `DRIVEMAP(d)` (R341): the pre-gain `g`, the character amount `ch` and the output attenuation `att`. -/
structure Drive where
  g : F64
  ch : F64
  att : F64
  deriving DecidableEq, Repr

/-- `DRIVEMAP(d)` (R341). -/
def driveMap (lib : Libm) (d : F64) : Drive :=
  let half := F64.dec 5 1
  let g := db2lin lib d
  let k := half.add ((half.mul (F64.min (F64.max d c0) driveCharDb)).div driveCharDb)
  ⟨g, (c2.mul k).sub c1, if d.lt c0 then g else c1⟩

/-- `CLEAN(g, x)` (R343). -/
def clean (g x : F64) : F64 := x.mul g

/-- `PURE(st, ch, x)` (R350): the new `prev` and the output. -/
def pureStep (cfg : Params) (prev ch x : F64) : F64 × F64 :=
  (dnz cfg.denormMode (cfg.pureFn cfg.libm prev ch x).1, (cfg.pureFn cfg.libm prev ch x).2)

/-- `TSHAPE(v, ch, Pf)` (R353). -/
def tubeShape (cfg : Params) (v ch pf : F64) : F64 :=
  let n := ch.mul cfg.tubeNeg
  if c1.lt v then (c1.sub (ch.div pf)).add ((c1.sub ch).mul (v.sub c1))
  else if c0.le v then v.sub ((ch.mul (cfg.libm.pow v pf)).div pf)
  else if c1.neg.le v then v.add ((n.mul (cfg.libm.pow v.neg pf)).div pf)
  else if v.lt c1.neg then (c1.neg.add (n.div pf)).add ((c1.sub n).mul (v.add c1))
  else v

/-- `TUBE(st, ch, Pf, x)` (R353): the new `prev` and the output. -/
def tubeStep (cfg : Params) (prev ch pf x : F64) : F64 × F64 :=
  let h := cfg.tubeHyst.mul ch
  let u := ((c1.sub h).mul x).add (h.mul prev)
  (dnz cfg.denormMode x, if ch.feq c0 then x else tubeShape cfg u ch pf)

/-- `ENC(x, kc)` (R356). -/
def compandEnc (lib : Libm) (x kc : F64) : F64 :=
  if kc.feq c0 then x else (x.sign.mul (lib.ln (c1.add (kc.mul x.abs)))).div kc

/-- `DEC(u, kc)` (R356). -/
def compandDec (lib : Libm) (u kc : F64) : F64 :=
  if kc.feq c0 then u else (u.sign.mul ((lib.exp (kc.mul u.abs)).sub c1)).div kc

/-- `LFO(phase)` (R360): the 16-entry table read with wrap-around. -/
def lfo (t : List F64) (phase : F64) : F64 :=
  let n := intFloor phase
  let i := modIndex n 16
  (tableAt t i).add (((tableAt t ((i + 1) % 16)).sub (tableAt t i)).mul (phase.sub (F64.ofInt n)))

/-- `ADVANCE(st)` (R360): the new phase and PRNG word. -/
def advance (cfg : Params) (sr phase : F64) (rng : BitVec 32) : F64 × BitVec 32 :=
  let r := rand01 rng
  let inc := ((cfg.tapeLfoRateHz.mul (F64.ofNat 16)).div sr).mul
    (c1.add (cfg.tapeJitter.mul (r.2.sub (F64.dec 5 1))))
  (dnz cfg.denormMode (F64.fmod (phase.add inc) (F64.ofNat 16)), r.1)

/-- `FLUTTER(st, ch, u)` (R358): the sample is written, then read back through a fractional delay. -/
def flutter (cfg : Params) (sr : F64) (t : Tape) (ch u : F64) : Tape × F64 :=
  let line := t.line.write t.w (dnz cfg.denormMode u)
  let depth := (cfg.tapeFlutterDepth44.mul ch).mul (overallScale sr)
  let d := depth.mul (c1.add (lfo cfg.tapeLfoTable t.phase))
  let di := intFloor d
  let df := d.sub (F64.ofInt di)
  let a := line.read (modIndex ((t.w : Int) - di) line.len)
  let b := line.read (modIndex ((t.w : Int) - di - 1) line.len)
  let adv := advance cfg sr t.phase t.rng
  ({ t with line := line, w := (t.w + 1) % line.len, phase := adv.1, rng := adv.2 }, a.add ((b.sub a).mul df))

/-- `BUMPQ(ch)` (R361). -/
def bumpCoeffs (cfg : Params) (sr ch : F64) : Coeffs :=
  peak cfg.libm (F64.clamp cfg.tapeBumpHz fMinHz (fMaxFrac.mul sr)) cfg.tapeBumpQ (cfg.tapeBumpDb.mul ch) sr

/-- The value `BIAS(st, ch, u)` returns (R362), before `dnz` stores it. -/
def biasLimit (cfg : Params) (sr bias ch u : F64) : F64 :=
  let lim := if c0.lt ch then cfg.tapeBiasSlew44.div (ch.mul (overallScale sr)) else .inf false
  F64.clamp u (bias.sub lim) (bias.add lim)

/-- `TAPE(st, ch, x)` (R355).  R364 says that at `ch = 0` it returns a finite `x` within the clip level, with no condition
on the state; by R361 and R256 that holds from a zero bump state only, because after steps with `ch > 0` the head bump still
adds its history `s1`.  The model follows the formulas (DEDUCED, notes/assumptions/20.md). -/
def tapeStep (cfg : Params) (sr : F64) (t : Tape) (ch x : F64) : Tape × F64 :=
  let kc := cfg.tapeCompand.mul ch
  let fl := flutter cfg sr t ch (compandEnc cfg.libm x kc)
  let bump := biq cfg.denormMode fl.1.bump (bumpCoeffs cfg sr ch) fl.2
  let v := biasLimit cfg sr fl.1.bias ch bump.2
  ({ fl.1 with bump := bump.1, bias := dnz cfg.denormMode v },
   F64.clamp (compandDec cfg.libm v kc) cfg.tapeClip.neg cfg.tapeClip)

/-- `HARD(st, g, x)` (R366): the clip memory and the output. -/
def hardStep (cfg : Params) (st : Clipped) (g x : F64) : Clipped × F64 :=
  let c := cfg.clipCeil
  let v := x.mul g
  if c.lt v then (.pos, c.div g)
  else if v.lt c.neg then (.neg, c.neg.div g)
  else
    let o := match st with
      | .pos => (v.mul phi).add (c.mul (c1.sub phi))
      | .neg => (v.mul phi).sub (c.mul (c1.sub phi))
      | .no => v
    (.no, o.div g)

/-- `SOFT(st, g, x)` (R368): the new `last` and the output. -/
def softStep (cfg : Params) (last g x : F64) : F64 × F64 :=
  let c := cfg.clipCeil
  let v := x.mul g
  let s := c.mul (cfg.libm.sin (F64.clamp (v.div c) halfpi.neg halfpi))
  let sigma := F64.min cfg.softSmax (cfg.softK.div s.abs)
  let o := (s.mul (c1.sub sigma)).add (last.mul sigma)
  (dnz cfg.denormMode o, o.div g)

/-- `SAT_PI(c, x)` (R340).  PI_ALGO has codes 0 to 3 (R47), and no other code reaches this (`State.Inv` in
Safety.lean); the codes 4 and 5 of the out-stage cannot reach this instance. -/
def satPi (e : Env) (x : F64) (st : PiSat) : PiSat × F64 :=
  let d := driveMap e.cfg.libm (e.p .piDrive)
  match e.code .piAlgo with
  | 0 => (st, clean d.g x)
  | 1 =>
    let r := pureStep e.cfg st.purePrev d.ch x
    ({ st with purePrev := r.1 }, r.2.mul d.att)
  | 2 =>
    let r := tapeStep e.cfg e.sr st.tape d.ch x
    ({ st with tape := r.1 }, r.2.mul d.att)
  | _ =>
    let r := tubeStep e.cfg st.tubePrev d.ch e.cfg.tubePfPi x
    ({ st with tubePrev := r.1 }, r.2.mul d.att)

/-- `SAT_OS(c, x)` (R340), with Hard Clip (4) and Soft Clip (5).  No code above 5 reaches this. -/
def satOs (e : Env) (x : F64) (st : OsSat) : OsSat × F64 :=
  let d := driveMap e.cfg.libm (e.p .osDrive)
  match e.code .osAlgo with
  | 0 => (st, clean d.g x)
  | 1 =>
    let r := pureStep e.cfg st.purePrev d.ch x
    ({ st with purePrev := r.1 }, r.2.mul d.att)
  | 2 =>
    let r := tapeStep e.cfg e.sr st.tape d.ch x
    ({ st with tape := r.1 }, r.2.mul d.att)
  | 3 =>
    let r := tubeStep e.cfg st.tubePrev d.ch e.cfg.tubePfOs x
    ({ st with tubePrev := r.1 }, r.2.mul d.att)
  | 4 =>
    let r := hardStep e.cfg st.hardClipped d.g x
    ({ st with hardClipped := r.1 }, r.2)
  | _ =>
    let r := softStep e.cfg st.softLast d.g x
    ({ st with softLast := r.1 }, r.2)

end Sys2Proof.Machine
end

