-- ==== Sys2Proof/Machine/ConsoleStage.lean ====
section
/-!
DEFINITION. The Console stage CO (spec/48_console.md).
-/

namespace Sys2Proof.Machine

open Config

/-- `CO_HPK[p]` (R571): profiles A, B and C are codes 2, 3 and 4. -/
def coHpk (cfg : Params) (p : Nat) : F64 := if p = 2 then cfg.coHpkA else if p = 3 then cfg.coHpkB else cfg.coHpkC

/-- `CO_SLEW[p]` (R571). -/
def coSlew (cfg : Params) (p : Nat) : F64 := if p = 2 then cfg.coSlewA else if p = 3 then cfg.coSlewB else cfg.coSlewC

/-- One bank of `ADHP` (R574), before `dnz`. -/
def adhpBank (lp x k : F64) : F64 := lp.add ((x.sub lp).mul k)

/-- `ADHP(c, p, x)` (R574): the bank the flip bit selects is updated, and `h` uses the updated bank. -/
def adhp (cfg : Params) (sr : F64) (p : Nat) (x : F64) (st : Console) : Console × F64 :=
  let k := F64.min c1 (((coHpk cfg p).mul (c1.add (x.abs.mul cfg.coHpLevel))).div (overallScale sr))
  if st.hpFlip then
    let lp := dnz cfg.denormMode (adhpBank st.lpB x k)
    ({ st with lpB := lp, hpFlip := false }, x.sub lp)
  else
    let lp := dnz cfg.denormMode (adhpBank st.lpA x k)
    ({ st with lpA := lp, hpFlip := true }, x.sub lp)

/-- `BLEND(h)` (R575): the sine Phat and the asymmetric Spiral. -/
def blend (cfg : Params) (h : F64) : F64 :=
  let ph := cfg.libm.sin (F64.clamp h halfpi.neg halfpi)
  let v0 := if h.lt c0 then h.mul cfg.coSpiralAsym else h
  let v := F64.clamp v0 halfpi.sqrt.neg halfpi.sqrt
  let av := v.abs
  let sp := (cfg.libm.sin (v.mul av)).div (if av.feq c0 then c1 else av)
  ((c1.sub cfg.coBlend).mul ph).add (cfg.coBlend.mul sp)

/-- `SLEW(c, p, s)` (R576). -/
def slew (cfg : Params) (sr : F64) (p : Nat) (s : F64) (st : Console) : Console × F64 :=
  let ref := (st.h1.mul phi).add (st.h2.mul (c1.sub phi))
  let lim := (coSlew cfg p).div (overallScale sr)
  let y := F64.clamp s (ref.sub lim) (ref.add lim)
  ({ st with h2 := st.h1, h1 := dnz cfg.denormMode y }, y)

/-- `DITHER(c, y)` (R577). -/
def dither (cfg : Params) (y : F64) (st : Console) : Console × F64 :=
  let t := tpdf cfg.ditherAmp st.rng
  ({ st with rng := t.1 }, y.add t.2)

/-- `PIPE(c, p, x)` (R573). -/
def pipe (cfg : Params) (sr : F64) (p : Nat) (x : F64) (st : Console) : Console × F64 :=
  let h := adhp cfg sr p x st
  let y := slew cfg sr p (blend cfg h.2) h.1
  dither cfg y.2 y.1

/-- `CONS(c, x)` (R570): Clean, Pure (R572), or the pipeline of a hardware profile. -/
def cons (e : Env) (x : F64) (st : Console) : Console × F64 :=
  let p := e.code .coProfile
  if p = 0 then (st, x)
  else if p = 1 then
    let r := pureStep e.cfg st.purePrev ((c2.mul e.cfg.coPureIntensity).sub c1) x
    ({ st with purePrev := r.1 }, r.2)
  else pipe e.cfg e.sr p x st

end Sys2Proof.Machine
end

