-- ==== Sys2Proof/Machine/Dynamics.lean ====
section
/-!
DEFINITION. The Control-Comp and Low-Dynamic stages CC and LD (spec/45_dynamics.md).
-/

namespace Sys2Proof.Machine

open Config

/-- `onepole(ms)` at the rate of the step (R253). -/
def Env.onepole (e : Env) (ms : F64) : F64 := Machine.onepole e.cfg.libm e.sr ms

/-- The seek gain of a compressor (R443, R537, R540): 1.0 at or below the threshold, else
`pow(thr / level, 1.0 - 1.0 / ratio)`. -/
def seekGain (lib : Libm) (thr ratio level : F64) : F64 :=
  if level.le thr then c1 else lib.pow (thr.div level) (c1.sub (c1.div ratio))

/-- The ballistics of R444: `max(gain * attack, seek)` when reducing, `min(gain / release, seek)` when
recovering. -/
def gainStep (atk rel gain seek : F64) : F64 :=
  if seek.lt gain then F64.max (gain.mul atk) seek
  else if gain.lt seek then F64.min (gain.div rel) seek
  else gain

/-! ### Control-Comp -/

/-- The constants of a mode (R441): ratio, attack, release and detector. -/
structure CcMode where
  ratio : F64
  atk : F64
  rel : F64
  dc : F64
  deriving DecidableEq, Repr

/-- The constants of mode code `m` (R441): 0 Normal, 1 Fast. -/
def ccMode (e : Env) : CcMode :=
  if e.code .ccMode = 0 then
    ⟨e.cfg.ccRatioNormal, e.onepole e.cfg.ccAtkNormal, e.onepole e.cfg.ccRelNormal, e.onepole e.cfg.ccDetNormal⟩
  else ⟨e.cfg.ccRatioFast, e.onepole e.cfg.ccAtkFast, e.onepole e.cfg.ccRelFast, e.onepole e.cfg.ccDetFast⟩

/-- `CCOMP(c, x)` (R440, R442-R444): the state and the output.  The gain meter is `lin2db` of the new gain. -/
def ccomp (e : Env) (x : F64) (st : ControlComp) : ControlComp × F64 :=
  let m := ccMode e
  let a := x.abs
  let env := dnz e.cfg.denormMode
    (if st.env.lt a then a else (m.dc.mul st.env).add ((c1.sub m.dc).mul a))
  let seek := seekGain e.cfg.libm (db2lin e.cfg.libm (e.p .ccThresh)) m.ratio env
  let gain := dnz e.cfg.denormMode (gainStep m.atk m.rel st.gain seek)
  (⟨env, gain⟩, x.mul gain)

/-! ### Low-Dynamic -/

/-- `MS_STEP(c, x)` (R452): the new mean square. -/
def msStep (e : Env) (ms x : F64) : F64 :=
  let cR := e.onepole e.cfg.ldRmsMs
  dnz e.cfg.denormMode ((cR.mul ms).add ((c1.sub cR).mul (x.mul x)))

/-- The detector level in dB (R452). -/
def detLevel (e : Env) (ms : F64) : F64 := (F64.ofNat 10).mul (e.cfg.libm.log10 ms)

/-- `GATE(c, x, det)` (R453): gated by the instantaneous level. -/
def gate (e : Env) (x det : F64) : F64 :=
  let thr := e.p .ldThresh
  if x.abs.lt (db2lin e.cfg.libm thr) then F64.max c0 (thr.sub det) else c0

/-- `KNEE(d)` (R454). -/
def knee (d : F64) : F64 :=
  if d.lt ldKneeDb then (d.mul d).div (c2.mul ldKneeDb) else d.sub (ldKneeDb.div c2)

/-- `TARGET(r, dk)` (R455). -/
def ldTarget (cfg : Params) (r dk : F64) : F64 :=
  if r.lt c0 then (F64.min ldMaxCutDb ((cfg.ldExpDepth.mul (r.mul r)).mul dk)).neg
  else F64.min cfg.ldLiftMaxDb ((cfg.ldLiftDepth.mul r).mul dk)

/-- `BALLISTICS(c, r, tg)` (R456): the new smoothed gain in dB. -/
def ldBallistics (e : Env) (g0 r tg : F64) : F64 :=
  let ca := e.onepole e.cfg.ldAtkMs
  let cr := e.onepole e.cfg.ldRelMs
  let k := if r.lt c0 then (if g0.lt tg then ca else cr) else (if tg.lt g0 then ca else cr)
  dnz e.cfg.denormMode (tg.add (k.mul (g0.sub tg)))

/-- `WARM_TICK(c)` (R457): counts to LD_WARMUP_N and stays. -/
def warmTick (n : Nat) : Nat := if n < ldWarmupN then n + 1 else n

/-- The clamp of `WARM_CLAMP(c, g)` (R457), by the count at entry. -/
def warmClamp (n : Nat) (g : F64) : F64 := if n < ldWarmupN then F64.clamp g ldWarmupDb.neg ldWarmupDb else g

/-- `LDYN(c, x)` (R450): the state, the output, and the applied gain in dB for the meter (R458). -/
def ldyn (e : Env) (x : F64) (st : LowDynamic) : LowDynamic × F64 × F64 :=
  let ms := msStep e st.ms x
  let r := e.p .ldRatio
  if r.feq c0 then (⟨ms, c0, warmTick st.warm⟩, x, c0)
  else
    let dk := knee (gate e x (detLevel e ms))
    let gdb := ldBallistics e st.gdb r (ldTarget e.cfg r dk)
    let ap := warmClamp st.warm gdb
    (⟨ms, gdb, warmTick st.warm⟩, x.mul (db2lin e.cfg.libm ap), ap)

end Sys2Proof.Machine
end

