-- ==== Sys2Proof/Machine/EqStage.lean ====
section
/-!
DEFINITION. The EQ stage: bass shelf, bell 1, bell 2, treble shelf (spec/46_eq.md).
-/

namespace Sys2Proof.Machine

open Config

/-- The step of `SHELF` (R492) with its coefficients: the bank the flip bit selects runs, the other holds its state,
and the bit flips. -/
def shelfStep (mode : DenormMode) (q : Coeffs) (x : F64) (st : Shelf) : Shelf × F64 :=
  if st.flip then
    let r := biq mode st.bankB q x
    ({ st with bankB := r.1, flip := false }, r.2)
  else
    let r := biq mode st.bankA q x
    ({ st with bankA := r.1, flip := true }, r.2)

/-- The shelf design rate `Fd = SR / SHELF_DIV` (R491). -/
def shelfRate (e : Env) : F64 := e.sr.div e.cfg.shelfDiv

/-- The coefficients of the bass shelf (R490, R492). -/
def bassCoeffs (e : Env) : Coeffs :=
  lshelf e.cfg.libm (e.p .eqBassFreq) (e.p .eqBassGain) e.cfg.shelfS (shelfRate e)

/-- The coefficients of the treble shelf (R490, R492). -/
def trebCoeffs (e : Env) : Coeffs :=
  hshelf e.cfg.libm (e.p .eqTrebFreq) (e.p .eqTrebGain) e.cfg.shelfS (shelfRate e)

/-- The centre frequency of a bell from its table index (R495). -/
def bellFreq (e : Env) (fidx : Nat) : F64 :=
  F64.clamp (tableAt e.cfg.bellFreqTable fidx) fMinHz (fMaxFrac.mul e.sr)

/-- `BELLQ(G, fb, qofs)` (R496). -/
def bellQ (cfg : Params) (g fb qofs : F64) : F64 :=
  let q :=
    if c0.le g then
      (F64.dec 15 2).add ((((F64.dec 75 2).sub (F64.dec 15 2)).mul g).div cfg.eqGainMax)
    else (F64.dec 25 2).add ((((F64.dec 33 1).sub (F64.dec 25 2)).mul g.abs).div cfg.eqGainMax)
  let lo := F64.ofNat 500
  let hi := F64.ofNat 3000
  let comp :=
    if fb.le lo then F64.dec 11 1
    else if hi.le fb then F64.dec 9 1
    else (F64.dec 11 1).add ((((F64.dec 9 1).sub (F64.dec 11 1)).mul (fb.sub lo)).div (hi.sub lo))
  F64.clamp ((q.mul comp).add qofs) qMin qMax

/-- The coefficients of a bell (R498). -/
def bellCoeffs (e : Env) (gain fidx : PReg) (qofs : OReg) : Coeffs :=
  let fb := bellFreq e (e.code fidx)
  peak e.cfg.libm fb (bellQ e.cfg (e.p gain) fb (e.ofs qofs)) (e.p gain) e.sr

/-- `EQ(c, x)` (R490). -/
def eqStep (e : Env) (x : F64) (st : Equaliser) : Equaliser × F64 :=
  let m := e.cfg.denormMode
  let bass := shelfStep m (bassCoeffs e) x st.bass
  let b1 := biq m st.bell1 (bellCoeffs e .eqB1Gain .eqB1Fidx .b1Qofs) bass.2
  let b2 := biq m st.bell2 (bellCoeffs e .eqB2Gain .eqB2Fidx .b2Qofs) b1.2
  let treb := shelfStep m (trebCoeffs e) b2.2 st.treb
  (⟨bass.1, treb.1, b1.1, b2.1⟩, treb.2)

end Sys2Proof.Machine
end

