-- ==== Sys2Proof/Machine/FilterStage.lean ====
section
/-!
DEFINITION. The filter stage FL: a highpass, then a lowpass (spec/44_filters.md).
-/

namespace Sys2Proof.Machine

open Config

/-- `QBASE` of a Q mode (R401): code 0 Normal, code 1 Bump. -/
def qBase (mode : Nat) : F64 := if mode = 0 then qNormal else qBump

/-- `Q_HPF` (R403). -/
def hpfQ (e : Env) : F64 := F64.clamp ((qBase (e.code .hpfQmode)).add (e.ofs .hpfQofs)) qMin qMax

/-- `Q_LPF` (R403): forced to 0.5, with no offset, at slope code 0. -/
def lpfQ (e : Env) : F64 :=
  if e.code .lpfSlope = 0 then qLpf6
  else F64.clamp ((qBase (e.code .lpfQmode)).add (e.ofs .lpfQofs)) qMin qMax

/-- `qH` (R404). -/
def hpfCoeffs (e : Env) : Coeffs := e.cfg.hpfDesign e.cfg.libm (e.p .hpfFreq) (hpfQ e) e.sr

/-- `qL` (R404). -/
def lpfCoeffs (e : Env) : Coeffs := e.cfg.lpfDesign e.cfg.libm (e.p .lpfFreq) (lpfQ e) e.sr

/-- One filter (R405-R407): one section, and with slope code 1 a second one in series with the same coefficients.
A section that is not run holds its state. -/
def cascade (mode : DenormMode) (two : Bool) (q : Coeffs) (x : F64) (a b : Biquad) : (Biquad × Biquad) × F64 :=
  let r := biq mode a q x
  if two then
    let r' := biq mode b q r.2
    ((r.1, r'.1), r'.2)
  else ((r.1, b), r.2)

/-- `FILT(c, x)` (R400): the HPF of R406, then the LPF of R407. -/
def filt (e : Env) (x : F64) (st : Filters) : Filters × F64 :=
  let h := cascade e.cfg.denormMode (e.code .hpfSlope == 1) (hpfCoeffs e) x st.hpf0 st.hpf1
  let l := cascade e.cfg.denormMode (e.code .lpfSlope == 1) (lpfCoeffs e) h.2 st.lpf0 st.lpf1
  (⟨h.1.1, h.1.2, l.1.1, l.1.2⟩, l.2)

end Sys2Proof.Machine
end

