-- ==== Sys2Proof/Machine/StyleStage.lean ====
section
/-!
DEFINITION. The Style-Comp stage SC: Warm and Punch behind one wrapper (spec/47_style_comp.md).
-/

namespace Sys2Proof.Machine

open Config

/-- The fixed threshold (R531). -/
def scThresh (e : Env) : F64 := db2lin e.cfg.libm e.cfg.scThreshDb

/-- `WARM_DET(st, z)` (R536): the two detector stages. -/
def warmDet (e : Env) (z : F64) (st : Warm) : F64 × F64 :=
  let a := z.abs
  let gr := (lin2db e.cfg.libm st.gain).neg
  let ca := e.onepole (lutLin e.cfg.optAtkTable gr)
  let cr := e.onepole (lutExp e.cfg.optRelTable (c1.div st.gain))
  let k1 := if st.e1.lt a then ca else cr
  let e1 := dnz e.cfg.denormMode ((k1.mul st.e1).add ((c1.sub k1).mul a))
  let k2 := e.onepole e.cfg.optStage2Ms
  (e1, dnz e.cfg.denormMode ((k2.mul st.e2).add ((c1.sub k2).mul e1)))

/-- `WARM(st, z)` (R537). -/
def warmStep (e : Env) (z : F64) (st : Warm) : Warm × F64 :=
  let d := warmDet e z st
  let gain := dnz e.cfg.denormMode (seekGain e.cfg.libm (scThresh e) e.cfg.optRatio d.2)
  (⟨d.1, d.2, gain⟩, z.mul gain)

/-- `PUNCH(st, z)` (R540). -/
def punchStep (e : Env) (z : F64) (st : Punch) : Punch × F64 :=
  let a := z.abs
  let seek := seekGain e.cfg.libm (scThresh e) e.cfg.punchRatio a
  let gain := dnz e.cfg.denormMode (gainStep (e.onepole punchAtkMs) (e.onepole e.cfg.punchRelMs) st.gain seek)
  (⟨dnz e.cfg.denormMode a, gain⟩, z.mul gain)

/-- `METER_SC(c)` (R542): `lin2db` of the selected algorithm's gain. -/
def scMeter (e : Env) (st : StyleComp) : F64 :=
  lin2db e.cfg.libm (if e.code .scAlgo = 0 then st.warm.gain else st.punch.gain)

/-- `SCOMP(c, x)` (R530): only the selected algorithm runs. -/
def scomp (e : Env) (x : F64) (st : StyleComp) : StyleComp × F64 :=
  let pre := db2lin e.cfg.libm (e.p .scIn)
  let mk := db2lin e.cfg.libm (e.p .scMakeup)
  let w := (e.p .scMix).div (F64.ofNat 100)
  let z := pre.mul x
  let r :=
    if e.code .scAlgo = 0 then
      let v := warmStep e z st.warm
      (({ st with warm := v.1 } : StyleComp), v.2)
    else
      let v := punchStep e z st.punch
      (({ st with punch := v.1 } : StyleComp), v.2)
  (r.1, ((w.mul mk).mul r.2).add ((c1.sub w).mul x))

end Sys2Proof.Machine
end

