-- ==== Sys2Proof/Machine/Chain.lean ====
section
/-!
DEFINITION. The signal chain: the nine stages, the smooth-bypass wrapper and the output volume
(spec/42_bypass_chain.md).
-/

namespace Sys2Proof.Machine

open Config

/-- `OVOL(c, x)` (R300). -/
def ovol (e : Env) (x : F64) : F64 := x.mul (db2lin e.cfg.libm (e.p .ovGain))

/-- The kernel of stage `k` (R290): it reads and writes its own part of the channel, and writes its gain meter
(R298). -/
def kernel (e : Env) : Stage → ChanState → F64 → ChanState × F64
  | .pi, s, x => let r := satPi e x s.pi; ({ s with pi := r.1 }, r.2)
  | .fl, s, x => let r := filt e x s.fl; ({ s with fl := r.1 }, r.2)
  | .cc, s, x =>
    let r := ccomp e x s.cc
    ({ s with cc := r.1, m := { s.m with ccgr := lin2db e.cfg.libm r.1.gain } }, r.2)
  | .ld, s, x =>
    let r := ldyn e x s.ld
    ({ s with ld := r.1, m := { s.m with ldgr := r.2.2 } }, r.2.1)
  | .eq, s, x => let r := eqStep e x s.eq; ({ s with eq := r.1 }, r.2)
  | .sc, s, x =>
    let r := scomp e x s.sc
    ({ s with sc := r.1, m := { s.m with scgr := scMeter e r.1 } }, r.2)
  | .co, s, x => let r := cons e x s.co; ({ s with co := r.1 }, r.2)
  | .os, s, x => let r := satOs e x s.os; ({ s with os := r.1 }, r.2)
  | .ov, s, x => (s, ovol e x)

/-- `FC` (R292). -/
def fadeCoeff (sr : F64) : F64 := F64.min c1 (c1.div (fadeTimeS.mul sr))

/-- The mix of a stage after one sample (R291 step 2): a fraction of the way to the target `t`, and `t` itself once
within the tolerance. -/
def nextMix (cfg : Params) (sr t m : F64) : F64 :=
  let n := m.add ((t.sub m).mul (fadeCoeff sr))
  if (t.sub n).abs.lt cfg.bypassEps then t else n

/-- The crossfade of R291 step 3: `wet * (1.0 - m) + x * m`. -/
def crossfade (wet x m : F64) : F64 := (wet.mul (c1.sub m)).add (x.mul m)

/-- `WRAP(k, c, x)` (R291): the kernel always runs, on the flushed input. -/
def wrap (e : Env) (k : Stage) (s : ChanState) (x : F64) : ChanState × F64 :=
  let r := kernel e k s (dnz e.cfg.denormMode x)
  let m := nextMix e.cfg e.sr (bypassTarget e.act k) (s.mix.get k)
  ({ r.1 with mix := s.mix.set k m }, crossfade r.2 x m)

/-- The stages in the order of R290. -/
def chainOrder : List Stage := [.pi, .fl, .cc, .ld, .eq, .sc, .co, .os, .ov]

/-- A sample through a list of stages, in order. -/
def runStages (e : Env) : List Stage → ChanState → F64 → ChanState × F64
  | [], s, x => (s, x)
  | k :: ks, s, x =>
    let r := wrap e k s x
    runStages e ks r.1 r.2

/-- A channel with its input peak raised to `abs(x)` (R64, R290). -/
def ChanState.meterIn (s : ChanState) (x : F64) : ChanState := { s with m := { s.m with inpk := F64.max s.m.inpk x.abs } }

/-- A channel with its output peak raised to `abs(v)` (R64, R290). -/
def ChanState.meterOut (s : ChanState) (v : F64) : ChanState :=
  { s with m := { s.m with outpk := F64.max s.m.outpk v.abs } }

/-- `CHAIN(c, x)` (R290). -/
def chain (e : Env) (s : ChanState) (x : F64) : ChanState × F64 :=
  let r := runStages e chainOrder (s.meterIn x) x
  (r.1.meterOut r.2, r.2)

end Sys2Proof.Machine
end

