-- ==== Sys2Proof/Machine/Commands.lean ====
section
/-!
DEFINITION. The meanings of the seven commands (spec/40_commands.md).  Where a command depends on the parameters of
the instance it is written for any instance (`...With cfg`), and the machine is the instance `params`.
-/

namespace Sys2Proof.Machine

open Config

/-- What the kernels of channel `c` read in state `s` (R45, R57). -/
def State.env (cfg : Params) (s : State) (c : Chan) : Env := ⟨cfg, real s.sr, s.act, c⟩

/-- NOP (R201). -/
def execNop (s : State) : Host.Outcome State Fault Refusal := .next (s.ok 0)

/-- WRREG (R202): BADREG for a reserved address or a read-only register, BADVAL for an illegal value. -/
def execWrreg (bank : BitVec 2) (idx : BitVec 6) (d : Word) (s : State) : Host.Outcome State Fault Refusal :=
  .next (match regName bank idx with
    | none => s.raise .badReg (encodeWord (.wrreg bank idx d))
    | some n =>
      match s.regWrite n d with
      | .ok t => t.ok 0
      | .error e => s.raise e (encodeWord (.wrreg bank idx d)))

/-- RDREG (R203): BADREG for a reserved address. -/
def execRdreg (bank : BitVec 2) (idx : BitVec 6) (s : State) : Host.Outcome State Fault Refusal :=
  .next (match regName bank idx with
    | none => s.raise .badReg (encodeWord (.rdreg bank idx))
    | some n => s.ok (s.regRead n))

/-- Whether SETSR accepts a rate (R205, R703): finite and positive. -/
def rateAccepted (r : F64) : Bool := c0.lt r && !(r == .inf false)

/-- Whether an accepted rate changes the one in force (R205). -/
def rateChanged (s : State) (r : F64) : Bool := !s.configured || !(r.feq (real s.sr))

/-- SETSR (R205) for a parameter instance. -/
def setsrWith (cfg : Params) (d : Word) (s : State) : State :=
  if rateAccepted (real d) then
    let t : State := { s with sr := d, configured := true }
    (if rateChanged s (real d) then t.resetChannels cfg else t).ok 0
  else s.raise .srRej (encodeWord (.setsr d))

/-- SETSR (R205). -/
def execSetsr (d : Word) (s : State) : Host.Outcome State Fault Refusal := .next (setsrWith params d s)

/-- RESET (R206) for a parameter instance. -/
def resetWith (cfg : Params) (s : State) : State := (s.resetChannels cfg).ok 0

/-- RESET (R206). -/
def execReset (s : State) : Host.Outcome State Fault Refusal := .next (resetWith params s)

/-- BLOCK (R207). -/
def execBlock (s : State) : Host.Outcome State Fault Refusal := .next (s.latch.ok 0)

/-- A configured SMP of channel `c` (R209): the chain, the channel's new state, and the response.  The sample count
of the channel advances, so that the NaNs this sample shows are free values of their own (R242). -/
def sampleWith (cfg : Params) (c : Chan) (x : F64) (s : State) : State :=
  let r := chain (s.env cfg c) (s.chan c) x
  let ch : ChanState := { r.1 with epoch := (s.chan c).epoch + 1 }
  (s.setChan c ch).ok (showReal c ch.epoch slotResponse r.2)

/-- SMP (R209) for a parameter instance: NOTCFG before the first accepted SETSR.  A CH field above 1, which no
decoded instruction has, is the BADCMD its word is (R144, R700). -/
def smpWith (cfg : Params) (ch : BitVec 8) (d : Word) (s : State) : State :=
  match Chan.ofCh ch with
  | none => s.raise .badCmd (encodeWord (.smp ch d))
  | some c =>
    if s.configured then sampleWith cfg c (real d) s
    else s.raise .notCfg (encodeWord (.smp ch d))

/-- SMP (R209). -/
def execSmp (ch : BitVec 8) (d : Word) (s : State) : Host.Outcome State Fault Refusal :=
  .next (smpWith params ch d s)

end Sys2Proof.Machine
end

