-- ==== Sys2Proof/Machine/Dispatch.lean ====
section
/-! DEFINITION. The meaning of every command, one arm per constructor of `Instr`. -/

namespace Sys2Proof.Machine

def exec (i : Instr) (s : State) : Host.Outcome State Fault Refusal :=
  match i with
  | .nop => Sys2Proof.Machine.execNop s
  | .wrreg bank idx d => Sys2Proof.Machine.execWrreg bank idx d s
  | .rdreg bank idx => Sys2Proof.Machine.execRdreg bank idx s
  | .setsr d => Sys2Proof.Machine.execSetsr d s
  | .reset => Sys2Proof.Machine.execReset s
  | .block => Sys2Proof.Machine.execBlock s
  | .smp ch d => Sys2Proof.Machine.execSmp ch d s

end Sys2Proof.Machine
end

