-- ==== Sys2Proof/Machine/PortOps.lean ====
section
/-!
DEFINITION. What a step does around a command's meaning: taking an event off the port (spec/20_memory.md R107),
power-on reset (spec/70_reset_and_hazards.md R740), and presenting a command.
-/

namespace Sys2Proof.Machine

open Config

/-- The state with `rest` still to come on the ports. -/
def State.withPort (s : State) (rest : List Event) : State := { s with port := rest }

/-- A command is taken off the port: bank 3 is kept as the command boundary before it (R108). -/
def State.accept (s : State) (rest : List Event) : State := (s.pushBoundary).withPort rest

/-- Power-on reset (R740), with `rest` still to come.  The counters of the free values, which are the model's own, go
on, so that a free value after the reset is another one. -/
def State.restart (s : State) (rest : List Event) : State :=
  let t := State.powerOn params
  { t with
    port := rest
    chL := { t.chL with epoch := s.chL.epoch }
    chR := { t.chR with epoch := s.chR.epoch }
    meterReads := s.meterReads }

/-- The state with the command in the low `nbits` bits of `w` presented first: the command word in bits [31:0], the
data word in the 64 bits above (R140). -/
def State.presentWord (s : State) (nbits w : Nat) : State :=
  s.withPort (.command (BitVec.ofNat 32 (w % 2 ^ nbits)) (BitVec.ofNat 64 (w % 2 ^ nbits / 2 ^ 32)) :: s.port)

end Sys2Proof.Machine
end

