-- ==== Sys2Proof/Machine/Step.lean ====
section
/-!
DEFINITION. One step of the block: the next event the outside world presents (spec/20_memory.md R107, R108;
40_commands.md R200; 70_reset_and_hazards.md R740).
-/

namespace Sys2Proof.Machine

/-- One step.  With nothing presented the block waits and holds its state (R717, R740).  A command word that decodes
runs as one atomic step; one that does not ends with BADCMD (R200, R700). -/
def step (s : State) : Host.Outcome State Fault Refusal :=
  match s.port with
  | [] => .next s
  | .powerOn :: rest => .next (s.restart rest)
  | .meterRead idx :: rest => .next ((s.withPort rest).meterRead idx)
  | .command cw d :: rest =>
    match decode cw d with
    | .cmd i => exec i (s.accept rest)
    | .badCmd => .next ((s.accept rest).raise .badCmd cw)

/-- The state with one command presented first on the command port: the command word in bits [31:0] of `w` and the
data word in the 64 bits above, cut to `nbits`. -/
def State.withFetchWord (s : State) (nbits w : Nat) : State := s.presentWord nbits w

end Sys2Proof.Machine
end

