-- ==== Sys2Proof/Machine/Assembler.lean ====
section
/-!
DEFINITION. The assembler (spec/30_encoding.md R148, R149): the names of the registers, the operand forms, the
pseudo-instructions with their expansions, and one line of text to the commands it stands for.  The block sees only
those commands (R149); nothing of `step` depends on this file.
-/

namespace Sys2Proof.Machine

/-! ### Names -/

/-- The name column of R47. -/
def PReg.name : PReg → String
  | .piBypass => "PI_BYPASS"
  | .piAlgo => "PI_ALGO"
  | .piDrive => "PI_DRIVE"
  | .flBypass => "FL_BYPASS"
  | .hpfFreq => "HPF_FREQ"
  | .hpfSlope => "HPF_SLOPE"
  | .hpfQmode => "HPF_QMODE"
  | .lpfFreq => "LPF_FREQ"
  | .lpfSlope => "LPF_SLOPE"
  | .lpfQmode => "LPF_QMODE"
  | .ccBypass => "CC_BYPASS"
  | .ccMode => "CC_MODE"
  | .ccThresh => "CC_THRESH"
  | .ldBypass => "LD_BYPASS"
  | .ldRatio => "LD_RATIO"
  | .ldThresh => "LD_THRESH"
  | .eqBypass => "EQ_BYPASS"
  | .eqBassGain => "EQ_BASS_GAIN"
  | .eqBassFreq => "EQ_BASS_FREQ"
  | .eqB1Gain => "EQ_B1_GAIN"
  | .eqB1Fidx => "EQ_B1_FIDX"
  | .eqB2Gain => "EQ_B2_GAIN"
  | .eqB2Fidx => "EQ_B2_FIDX"
  | .eqTrebGain => "EQ_TREB_GAIN"
  | .eqTrebFreq => "EQ_TREB_FREQ"
  | .scBypass => "SC_BYPASS"
  | .scAlgo => "SC_ALGO"
  | .scIn => "SC_IN"
  | .scMakeup => "SC_MAKEUP"
  | .scMix => "SC_MIX"
  | .coBypass => "CO_BYPASS"
  | .coProfile => "CO_PROFILE"
  | .osBypass => "OS_BYPASS"
  | .osAlgo => "OS_ALGO"
  | .osDrive => "OS_DRIVE"
  | .ovBypass => "OV_BYPASS"
  | .ovGain => "OV_GAIN"

/-- The name column of R51. -/
def OReg.name : OReg → String
  | .piDriveOfs => "PI_DRIVE_OFS"
  | .hpfFreqOfs => "HPF_FREQ_OFS"
  | .lpfFreqOfs => "LPF_FREQ_OFS"
  | .ccThreshOfs => "CC_THRESH_OFS"
  | .ldThreshOfs => "LD_THRESH_OFS"
  | .eqBassGainOfs => "EQ_BASS_GAIN_OFS"
  | .eqBassFreqOfs => "EQ_BASS_FREQ_OFS"
  | .eqB1GainOfs => "EQ_B1_GAIN_OFS"
  | .eqB2GainOfs => "EQ_B2_GAIN_OFS"
  | .eqTrebGainOfs => "EQ_TREB_GAIN_OFS"
  | .eqTrebFreqOfs => "EQ_TREB_FREQ_OFS"
  | .scInOfs => "SC_IN_OFS"
  | .scMakeupOfs => "SC_MAKEUP_OFS"
  | .osDriveOfs => "OS_DRIVE_OFS"
  | .ovGainOfs => "OV_GAIN_OFS"
  | .hpfQofs => "HPF_QOFS"
  | .lpfQofs => "LPF_QOFS"
  | .b1Qofs => "B1_QOFS"
  | .b2Qofs => "B2_QOFS"

/-- The name column of R53. -/
def SReg.name : SReg → String
  | .id => "ID"
  | .status => "STATUS"
  | .sr => "SR"
  | .errCmd => "ERRCMD"
  | .inpk .L => "M_INPK_L"
  | .inpk .R => "M_INPK_R"
  | .outpk .L => "M_OUTPK_L"
  | .outpk .R => "M_OUTPK_R"
  | .ccgr .L => "M_CCGR_L"
  | .ccgr .R => "M_CCGR_R"
  | .ldgr .L => "M_LDGR_L"
  | .ldgr .R => "M_LDGR_R"
  | .scgr .L => "M_SCGR_L"
  | .scgr .R => "M_SCGR_R"

/-- The name of a bank-1 or bank-2 register carries its bank (R148). -/
def RegName.text : RegName → String
  | .param r => r.name
  | .ofs .L r => "OFS_L." ++ r.name
  | .ofs .R r => "OFS_R." ++ r.name
  | .stat r => r.name

/-- The stage names of BYPASS (R149). -/
def Stage.name : Stage → String
  | .pi => "PI"
  | .fl => "FL"
  | .cc => "CC"
  | .ld => "LD"
  | .eq => "EQ"
  | .sc => "SC"
  | .co => "CO"
  | .os => "OS"
  | .ov => "OV"

/-- Every register of the address space. -/
def RegName.all : List RegName :=
  PReg.all.map .param ++ OReg.all.map (.ofs .L) ++ OReg.all.map (.ofs .R) ++ SReg.all.map .stat

/-- The stages in the order of R290. -/
def Stage.all : List Stage := [.pi, .fl, .cc, .ld, .eq, .sc, .co, .os, .ov]

/-! ### Pseudo-instructions (R149) -/

/-- The pseudo-instructions with their operands as data words. -/
inductive Pseudo where
  /-- `BYPASS st, f` -/
  | bypass (st : Stage) (f : Word)
  /-- `FRAME l, r` -/
  | frame (l r : Word)
  /-- `CLRSTAT` -/
  | clrstat
  /-- `SETOFS n, v` -/
  | setofs (n : OReg) (v : Word)
  /-- `SETHPF f, s, q` -/
  | sethpf (f s q : Word)
  /-- `SETLPF f, s, q` -/
  | setlpf (f s q : Word)
  /-- `PROCESSBLOCK n: l0, r0, ...` -/
  | processblock (frames : List (Word × Word))
  deriving DecidableEq, Repr

/-- WRREG of a register by its name. -/
def writeTo (n : RegName) (d : Word) : Instr := .wrreg n.bank n.idx d

/-- `SMP L, l` then `SMP R, r`. -/
def stereoFrame (l r : Word) : List Instr := [.smp 0 l, .smp 1 r]

/-- The expansions of R149. -/
def Pseudo.expand : Pseudo → List Instr
  | .bypass st f => [writeTo (.param st.bypass) f]
  | .frame l r => stereoFrame l r
  | .clrstat => [writeTo (.stat .status) 0x3E]
  | .setofs n v => [writeTo (.ofs .L n) v, writeTo (.ofs .R n) v]
  | .sethpf f s q =>
    [writeTo (.param .hpfFreq) f, writeTo (.param .hpfSlope) s, writeTo (.param .hpfQmode) q]
  | .setlpf f s q =>
    [writeTo (.param .lpfFreq) f, writeTo (.param .lpfSlope) s, writeTo (.param .lpfQmode) q]
  | .processblock frames => .block :: frames.flatMap fun p => stereoFrame p.1 p.2

/-! ### Literals (R148) -/

/-- Decimal digits read as a number, after `acc`. -/
def decDigits : List Char → Nat → Option Nat
  | [], acc => some acc
  | c :: cs, acc => if c.isDigit then decDigits cs (10 * acc + (c.toNat - 48)) else none

/-- The value of a hexadecimal digit. -/
def hexDigit (c : Char) : Option Nat :=
  if c.isDigit then some (c.toNat - 48)
  else if 'a' ≤ c ∧ c ≤ 'f' then some (c.toNat - 87)
  else if 'A' ≤ c ∧ c ≤ 'F' then some (c.toNat - 55)
  else none

/-- Hexadecimal digits read as a number, after `acc`. -/
def hexDigits : List Char → Nat → Option Nat
  | [], acc => some acc
  | c :: cs, acc =>
    match hexDigit c with
    | some n => hexDigits cs (16 * acc + n)
    | none => none

/-- Digits, at least one. -/
def digits (cs : List Char) : Option Nat := if cs.isEmpty then none else decDigits cs 0

/-- An unsigned integer literal, `1` or `0x3E`, of 64 bits. -/
def natLiteral (cs : List Char) : Option Word :=
  let n := match cs with
    | '0' :: 'x' :: hs => if hs.isEmpty then none else hexDigits hs 0
    | _ => digits cs
  n.bind fun v => if v < 2 ^ 64 then some (BitVec.ofNat 64 v) else none

/-- `#0x` and 16 hex digits: a raw word. -/
def rawLiteral : List Char → Option Word
  | '#' :: '0' :: 'x' :: hs => if hs.length = 16 then (hexDigits hs 0).map (BitVec.ofNat 64) else none
  | _ => none

/-- A decimal exponent, with its sign. -/
def exponent : List Char → Option Int
  | '-' :: cs => (digits cs).map fun n => -(n : Int)
  | '+' :: cs => (digits cs).map fun n => (n : Int)
  | cs => (digits cs).map fun n => (n : Int)

/-- The real `m * 10^e`, rounded to nearest. -/
def decimalReal (neg : Bool) (m : Nat) (e : Int) : F64 :=
  F64.round neg (m * 10 ^ e.toNat * 2 ^ 1074) (10 ^ (-e).toNat)

/-- An unsigned real literal: `inf`, or digits with a fraction and an exponent that may be absent. -/
def magnitude (neg : Bool) (cs : List Char) : Option F64 :=
  if cs = ['i', 'n', 'f'] then some (.inf neg)
  else
    let mant := cs.takeWhile (· ≠ 'e')
    let whole := mant.takeWhile (· ≠ '.')
    let frac := (mant.dropWhile (· ≠ '.')).drop 1
    let ex := cs.dropWhile (· ≠ 'e')
    match digits whole, decDigits frac 0, (if ex.isEmpty then some 0 else exponent (ex.drop 1)) with
    | some w, some f, some e => some (decimalReal neg (w * 10 ^ frac.length + f) (e - frac.length))
    | _, _, _ => none

/-- A real literal, as the word that carries it: it is never a NaN. -/
def realLiteral : List Char → Option Word
  | '-' :: cs => (magnitude true cs).map (bits64 0)
  | cs => (magnitude false cs).map (bits64 0)

/-- A real operand: a real literal or a raw word. -/
def realOperand (cs : List Char) : Option Word := (rawLiteral cs).or (realLiteral cs)

/-- An unsigned operand: an integer literal or a raw word. -/
def natOperand (cs : List Char) : Option Word := (rawLiteral cs).or (natLiteral cs)

/-- The value operand of a register: a real for kinds X and O, an unsigned integer for F, E and STATUS, and only a raw
word for a read-only register. -/
def valueOperand (n : RegName) (cs : List Char) : Option Word :=
  match n with
  | .param r =>
    match r.kind with
    | .param => realOperand cs
    | _ => natOperand cs
  | .ofs _ _ => realOperand cs
  | .stat .status => natOperand cs
  | .stat _ => rawLiteral cs

/-- A register operand by name. -/
def regByName (cs : List Char) : Option RegName := RegName.all.find? fun n => n.text == String.ofList cs

/-- The raw form `b:0xNN` of a register operand. -/
def regRaw : List Char → Option (BitVec 2 × BitVec 6)
  | [b, ':', '0', 'x', h, l] =>
    match digits [b], hexDigits [h, l] 0 with
    | some b, some i => if b < 4 ∧ i < 64 then some (BitVec.ofNat 2 b, BitVec.ofNat 6 i) else none
    | _, _ => none
  | _ => none

/-- A register operand, as an address: a name or the raw form. -/
def regOperand (cs : List Char) : Option (BitVec 2 × BitVec 6) :=
  match regByName cs with
  | some n => some (n.bank, n.idx)
  | none => regRaw cs

/-- The channel operand of SMP. -/
def chanOperand (cs : List Char) : Option (BitVec 8) :=
  if cs = ['L'] ∨ cs = ['0'] then some 0 else if cs = ['R'] ∨ cs = ['1'] then some 1 else none

/-! ### Lines -/

/-- WRREG: the form of the value follows the kind of the register; at a reserved address only a raw word will do. -/
def asmWrreg (reg v : List Char) : Option Instr :=
  (regOperand reg).bind fun a =>
    (match regName a.1 a.2 with
      | some n => valueOperand n v
      | none => rawLiteral v).map (.wrreg a.1 a.2)

/-- The frames of PROCESSBLOCK: operands two by two. -/
def frameOperands : List (List Char) → Option (List (Word × Word))
  | [] => some []
  | [_] => none
  | l :: r :: rest =>
    match realOperand l, realOperand r, frameOperands rest with
    | some l, some r, some fs => some ((l, r) :: fs)
    | _, _, _ => none

/-- The text without spaces before and behind it. -/
def trim (cs : List Char) : List Char :=
  ((cs.dropWhile (·.isWhitespace)).reverse.dropWhile (·.isWhitespace)).reverse

/-- The operands of a line: the text between commas, trimmed; none for a blank text. -/
def operands (cs : List Char) : List (List Char) :=
  if trim cs = [] then [] else (cs.splitOn ',').map trim

/-- Three values for three registers of bank 0. -/
def three (a b c : PReg) (f : Word → Word → Word → Pseudo) (x y z : List Char) : Option (List Instr) :=
  match valueOperand (.param a) x, valueOperand (.param b) y, valueOperand (.param c) z with
  | some x, some y, some z => some (f x y z).expand
  | _, _, _ => none

/-- A command or a pseudo-instruction from its mnemonic and its operands. -/
def asmCommand (mnemonic : List Char) (ops : List (List Char)) : Option (List Instr) :=
  match String.ofList mnemonic, ops with
  | "NOP", [] => some [.nop]
  | "RESET", [] => some [.reset]
  | "BLOCK", [] => some [.block]
  | "WRREG", [r, v] => (asmWrreg r v).map ([·])
  | "RDREG", [r] => (regOperand r).map fun a => [.rdreg a.1 a.2]
  | "SETSR", [v] => (realLiteral v).map fun d => [.setsr d]
  | "SMP", [c, v] =>
    match chanOperand c, realOperand v with
    | some c, some d => some [.smp c d]
    | _, _ => none
  | "BYPASS", [st, f] =>
    match Stage.all.find? (fun k => k.name == String.ofList st), natOperand f with
    | some k, some f => some (Pseudo.bypass k f).expand
    | _, _ => none
  | "FRAME", [l, r] =>
    match realOperand l, realOperand r with
    | some l, some r => some (Pseudo.frame l r).expand
    | _, _ => none
  | "CLRSTAT", [] => some Pseudo.clrstat.expand
  | "SETOFS", [n, v] =>
    match OReg.all.find? (fun r => r.name == String.ofList n), realOperand v with
    | some n, some v => some (Pseudo.setofs n v).expand
    | _, _ => none
  | "SETHPF", [f, s, q] => three .hpfFreq .hpfSlope .hpfQmode .sethpf f s q
  | "SETLPF", [f, s, q] => three .lpfFreq .lpfSlope .lpfQmode .setlpf f s q
  | _, _ => none

/-- `PROCESSBLOCK n: l0, r0, ...` from what stands behind the mnemonic: the count and `n` frames. -/
def asmProcessBlock (cs : List Char) : Option (List Instr) :=
  match digits (trim (cs.takeWhile (· ≠ ':'))), frameOperands (operands ((cs.dropWhile (· ≠ ':')).drop 1)) with
  | some n, some fs => if fs.length = n then some (Pseudo.processblock fs).expand else none
  | _, _ => none

/-- One line of assembly (R148): the commands it stands for; a blank line or a comment stands for none. -/
def assembleLine (line : String) : Option (List Instr) :=
  let text := trim (line.toList.takeWhile (· ≠ ';'))
  let mnemonic := text.takeWhile (!·.isWhitespace)
  let rest := text.dropWhile (!·.isWhitespace)
  if text = [] then some []
  else if mnemonic = "PROCESSBLOCK".toList then asmProcessBlock rest
  else asmCommand mnemonic (operands rest)

end Sys2Proof.Machine
end

