-- ==== Sys2Proof/Safety.lean ====
section
/-!
DEFINITION. What a sound state of the block is, the runs of spec/40_commands.md R210, and the fairness assumption of
the meter port (spec/20_memory.md R109).  The block has no fault (spec/60_exceptions.md R707), so a run is safe when
every state on it is sound and every command is answered.
-/

namespace Sys2Proof.Machine

open Config

/-! ### Registers -/

/-- Every register of a bank-0 image holds a value its kind accepts (R46, R48, R49). -/
def ParamBank.Legal (b : ParamBank) : Prop := ∀ r : PReg, r.kind.accepts (b.get r) = true

/-- Every offset is finite (R52). -/
def OfsBank.Legal (b : OfsBank) : Prop := ∀ r : OReg, Kind.offset.accepts (b.get r) = true

/-- The shadow registers, the offsets and `ACT` hold legal values only. -/
def State.RegsLegal (s : State) : Prop :=
  s.shadow.Legal ∧ s.ofsL.Legal ∧ s.ofsR.Legal ∧ s.act.param.Legal ∧ s.act.ofsL.Legal ∧ s.act.ofsR.Legal

/-- `SR` is a finite positive rate once the block is configured, and 0.0 before (R43, R44). -/
def State.RateLegal (s : State) : Prop :=
  if s.configured = true then rateAccepted (real s.sr) = true else s.sr = 0

/-! ### Channels -/

/-- A real with a clear sign bit that is not a NaN: what a peak meter holds (R64). -/
def isMagnitude : F64 → Bool
  | .nan => false
  | .inf neg => !neg
  | .fin neg _ _ => !neg

/-- The real-valued kernel state of a Tape instance, delay-line cells included (R244). -/
def Tape.reals (t : Tape) : List F64 := t.phase :: t.bump.s1 :: t.bump.s2 :: t.bias :: t.line.cells.map (·.2)

/-- The two history samples of a section. -/
def Biquad.reals (b : Biquad) : List F64 := [b.s1, b.s2]

/-- Every real-valued kernel state field of a channel, the crossfade mixes excepted: what `dnz` guards (R244). -/
def ChanState.reals (x : ChanState) : List F64 :=
  x.pi.purePrev :: x.pi.tubePrev :: x.pi.tape.reals ++
  x.fl.hpf0.reals ++ x.fl.hpf1.reals ++ x.fl.lpf0.reals ++ x.fl.lpf1.reals ++
  [x.cc.env, x.cc.gain, x.ld.ms, x.ld.gdb] ++
  x.eq.bass.bankA.reals ++ x.eq.bass.bankB.reals ++ x.eq.treb.bankA.reals ++ x.eq.treb.bankB.reals ++
  x.eq.bell1.reals ++ x.eq.bell2.reals ++
  [x.sc.warm.e1, x.sc.warm.e2, x.sc.warm.gain, x.sc.punch.env, x.sc.punch.gain,
   x.co.purePrev, x.co.lpA, x.co.lpB, x.co.h1, x.co.h2, x.os.purePrev, x.os.tubePrev, x.os.softLast] ++
  x.os.tape.reals

/-- A Tape instance with a delay line of `len` cells: the line in canonical form and of that length, the write index
inside it (R61, R357), and a PRNG word that is not 0 (R270). -/
def Tape.Sound (t : Tape) (len : Nat) : Prop := t.line.wf ∧ t.line.len = len ∧ t.w < len ∧ t.rng ≠ 0

/-- A channel whose delay lines have `len` cells: sound Tape instances, a Console PRNG word that is not 0, the
warm-up counter at most LD_WARMUP_N (R457), peak meters that are magnitudes (R64), and no subnormal in a recurrence
(R243, R244). -/
def ChanState.Sound (x : ChanState) (len : Nat) : Prop :=
  x.pi.tape.Sound len ∧ x.os.tape.Sound len ∧ x.co.rng ≠ 0 ∧ x.ld.warm ≤ ldWarmupN ∧
  isMagnitude x.m.inpk = true ∧ isMagnitude x.m.outpk = true ∧ ∀ v ∈ x.reals, v.isSubnormal = false

/-! ### The invariant -/

/-- The meter port has seen no boundary that is still to come (R108). -/
def State.MeterSound (s : State) : Prop := ∀ idx : BitVec 6, s.seen[idx.toNat] ≤ s.history.length

/-- What every reachable state satisfies and every step keeps: legal registers, a legal rate, ERRCMD a zero-extended
command word (R53), sound channels with delay lines sized for the rate (R61), and a sound meter port. -/
def State.Inv (s : State) : Prop :=
  s.RegsLegal ∧ s.RateLegal ∧ s.errCmd.toNat < 2 ^ 32 ∧
  s.chL.Sound (tapeBuf params (real s.sr)) ∧ s.chR.Sound (tapeBuf params (real s.sr)) ∧ s.MeterSound

/-! ### Agreement of states -/

/-- The configuration, the registers, the status and the errors of two states are the same: all that the two channel
engines share (R715). -/
def State.SameShared (s t : State) : Prop :=
  t.shadow = s.shadow ∧ t.ofsL = s.ofsL ∧ t.ofsR = s.ofsR ∧ t.act = s.act ∧ t.sr = s.sr ∧
  t.configured = s.configured ∧ t.errs = s.errs ∧ t.errCmd = s.errCmd

/-- What stands on the two ports is the same: the model's own fields that no command touches. -/
def State.SamePorts (s t : State) : Prop :=
  t.port = s.port ∧ t.history = s.history ∧ t.seen = s.seen ∧ t.meterReads = s.meterReads ∧
  t.meterResp = s.meterResp

/-- Both channel engines are the same. -/
def State.SameChannels (s t : State) : Prop := t.chL = s.chL ∧ t.chR = s.chR

/-! ### The reset column of R60, spelled out -/

/-- A section with both history samples 0.0. -/
def Biquad.AtReset (b : Biquad) : Prop := b.s1 = c0 ∧ b.s2 = c0

/-- A shelf with both banks cleared and the flip bit 0. -/
def Shelf.AtReset (s : Shelf) : Prop := s.bankA.AtReset ∧ s.bankB.AtReset ∧ s.flip = false

/-- A Tape instance with `len` cells of 0.0 and the phase and seed given. -/
def Tape.AtReset (t : Tape) (len : Nat) (phase : F64) (seed : BitVec 32) : Prop :=
  t.line.len = len ∧ (∀ i, t.line.read i = c0) ∧ t.w = 0 ∧ t.phase = phase ∧ t.rng = seed ∧ t.bump.AtReset ∧
  t.bias = c0

/-- Every field of `S[c]` but the mixes, and every meter, at the reset column of R60, with delay lines of `len`
cells. -/
def ChanState.AtReset (x : ChanState) (phase : F64) (seedPi seedOs seedCo : BitVec 32) (len : Nat) : Prop :=
  x.pi.purePrev = c0 ∧ x.pi.tubePrev = c0 ∧ x.pi.tape.AtReset len phase seedPi ∧
  x.fl.hpf0.AtReset ∧ x.fl.hpf1.AtReset ∧ x.fl.lpf0.AtReset ∧ x.fl.lpf1.AtReset ∧
  x.cc.env = c0 ∧ x.cc.gain = c1 ∧ x.ld.ms = c0 ∧ x.ld.gdb = c0 ∧ x.ld.warm = 0 ∧
  x.eq.bass.AtReset ∧ x.eq.treb.AtReset ∧ x.eq.bell1.AtReset ∧ x.eq.bell2.AtReset ∧
  x.sc.warm.e1 = c0 ∧ x.sc.warm.e2 = c0 ∧ x.sc.warm.gain = c1 ∧ x.sc.punch.env = c0 ∧ x.sc.punch.gain = c1 ∧
  x.co.purePrev = c0 ∧ x.co.lpA = c0 ∧ x.co.lpB = c0 ∧ x.co.hpFlip = false ∧ x.co.h1 = c0 ∧ x.co.h2 = c0 ∧
  x.co.rng = seedCo ∧
  x.os.purePrev = c0 ∧ x.os.tubePrev = c0 ∧ x.os.tape.AtReset len phase seedOs ∧ x.os.hardClipped = .no ∧
  x.os.softLast = c0 ∧
  x.m.inpk = c0 ∧ x.m.outpk = c0 ∧ x.m.ccgr = c0 ∧ x.m.ldgr = c0 ∧ x.m.scgr = c0

/-- Channel `c` as a channel reset leaves it at the rate `sr`: the reset column, with the OPEN start phases and seeds
of the instance, and every mix at the target the latched bypass flag gives (R741). -/
def State.ChanReset (s : State) (c : Chan) (act : ActiveSet) (sr : F64) : Prop :=
  (s.chan c).AtReset (tapePhase0 params c) (tapeSeedPi params c) (tapeSeedOs params c) (coSeed params c)
    (tapeBuf params sr) ∧
  ∀ k : Stage, (s.chan c).mix.get k = if act.param.get k.bypass = 1 then c1 else c0

/-! ### Runs -/

/-- Commands run one after the other, with their responses. -/
def runCommands : List Instr → State → Option (List Response × State)
  | [], s => some ([], s)
  | i :: is, s =>
    match exec i s with
    | .next t =>
      match t.resp, runCommands is t with
      | some r, some (rs, u) => some (r :: rs, u)
      | _, _ => none
    | _ => none

/-- SMP of a channel with an input sample. -/
def smpOf (c : Chan) (d : Word) : Instr := .smp (BitVec.ofNat 8 (chanNum c)) d

/-- The SMPs of a list of samples, each with its channel. -/
def smps (xs : List (Chan × Word)) : List Instr := xs.map fun p => smpOf p.1 p.2

/-- The samples of one channel, in order. -/
def samplesOf (c : Chan) (xs : List (Chan × Word)) : List Word :=
  (xs.filter fun p => p.1 = c).map (·.2)

/-- The responses that one channel's samples got, in order. -/
def responsesOf (c : Chan) (xs : List (Chan × Word)) (rs : List Response) : List Response :=
  ((xs.zip rs).filter fun p => p.1.1 = c).map (·.2)

/-- The state after one event is presented and taken. -/
def State.present (s : State) (e : Event) : Host.Outcome State Fault Refusal := step (s.withPort [e])

/-- The states of a run: from `s`, by the events in order, to `t` (R210). -/
inductive Run : State → List Event → State → Prop where
  | nil (s : State) : Run s [] s
  | cons {s t u : State} {e : Event} {es : List Event} : s.present e = .next t → Run t es u → Run s (e :: es) u

/-- A safe run: every state on the way is sound. -/
def SafeRun (s : State) (es : List Event) : Prop :=
  ∀ (done : List Event) (t : State), done <+: es → Run s done t → t.Inv

/-! ### Fairness of the meter port -/

/-- Meter-port reads of the indices of a list, one after the other, with no command between. -/
def State.readMeters (s : State) (lag : Nat → Nat → Nat) : List (BitVec 6) → State
  | [] => s
  | idx :: rest => (s.meterReadWith lag idx).readMeters lag rest

/-- The fairness assumption of R109, on the function that settles how far behind a read is: for every index, from every
read of it on and for every distance, some later read of that index covers exactly that distance, whatever other
indices are read between.  This machine's function is the free value `meterLag`. -/
def MeterFair (lag : Nat → Nat → Nat) : Prop := ∀ i n k : Nat, ∃ m, n ≤ m ∧ lag i m % (k + 1) = k

end Sys2Proof.Machine
end

