-- ==== Sys2Proof/Certificates/Slice0/Obligations.lean ====
section
/-!
DEFINITION. The statements for the provers.  Each says which rules of spec/ it formalises; a statement that rests on a
choice of the model says so.
-/

open Sys2Proof Sys2Proof.Machine Sys2Proof.Config Host

/-! ### Reset -/

/-- Power-on reset (R740): every register at its reset column, the channels at the reset column of R60 with delay
lines of two cells (`TAPE_BUF(0.0)`), the start phases TAPE_PHASE0 and the seeds of the parameter instance, every mix
1.0; and then the block waits for a command. -/
def Obligations.PowerOnResetValues : Prop :=
  (∀ p ∈ ([(0x00, 1), (0x01, 0), (0x02, 0), (0x08, 1), (0x09, 0x4034000000000000), (0x0A, 0), (0x0B, 0),
      (0x0C, 0x40D3880000000000), (0x0D, 0), (0x0E, 0), (0x10, 1), (0x11, 0), (0x12, 0), (0x14, 1), (0x15, 0),
      (0x16, 0xC044000000000000), (0x18, 1), (0x19, 0), (0x1A, 0x4059000000000000), (0x1B, 0), (0x1C, 4), (0x1D, 0),
      (0x1E, 10), (0x1F, 0), (0x20, 0x40C3880000000000), (0x24, 1), (0x25, 0), (0x26, 0), (0x27, 0),
      (0x28, 0x4059000000000000), (0x2C, 1), (0x2D, 0), (0x30, 1), (0x31, 0), (0x32, 0), (0x38, 1), (0x39, 0)] :
      List (BitVec 6 × Word)),
    (regName 0 p.1).map State.reset.regRead = some p.2) ∧
  (∀ c r, State.reset.regRead (.ofs c r) = 0) ∧
  (∀ r, State.reset.regRead (.stat r) = if r = .id then 0x0000000041430007 else 0) ∧
  State.reset.sr = 0 ∧ State.reset.configured = false ∧
  State.reset.act = ⟨State.reset.shadow, State.reset.ofsL, State.reset.ofsR⟩ ∧
  (∀ c, (State.reset.chan c).AtReset (tapePhase0 params c) (tapeSeedPi params c) (tapeSeedOs params c)
    (coSeed params c) 2) ∧
  (∀ c k, (State.reset.chan c).mix.get k = F64.ofNat 1) ∧
  step State.reset = .next State.reset

/-- The invariant holds after reset. -/
def Obligations.InvariantAtReset : Prop := State.reset.Inv

/-- The invariant is kept by every step, whatever the port presents: legal registers, a legal rate, delay lines in
canonical form and sized for the rate, PRNG words that are not 0, the warm-up counter within its bound, peaks that are
magnitudes, no subnormal in a recurrence.  (The machine is the reference instance, notes/assumptions/4.md: the last
clause needs its DENORM_MODE, flush to zero.) -/
def Obligations.StepKeepsInvariant : Prop := ∀ s t : State, s.Inv → step s = .next t → t.Inv

/-! ### Encoding and decoding -/

/-- Decoding the words of a well-formed instruction gives it back, with every operand at every value. -/
def Obligations.DecodeOfEncode : Prop := ∀ i : Instr, i.WellFormed → decode (encode i).1 (encode i).2 = .cmd i

/-- Every word that decodes to a command is that command's word, the command is well-formed and is decoded again from its
own data word, and a command that takes a data word (WRREG, SETSR, SMP) holds exactly the one presented. -/
def Obligations.EncodeOfDecode : Prop :=
  ∀ (cw : CmdWord) (d : Word) (i : Instr), decode cw d = .cmd i →
    i.WellFormed ∧ encodeWord i = cw ∧ decode cw (encodeData i) = .cmd i ∧
    (∀ b x v, i = .wrreg b x v → v = d) ∧ (∀ v, i = .setsr v → v = d) ∧ ∀ c v, i = .smp c v → v = d

/-- The opcode map is complete (R143): a word is a command's exactly when it matches that command's row, and a word
that matches no row ends with BADCMD. -/
def Obligations.OpcodeMapComplete : Prop :=
  let rows : List (String × CmdWord × CmdWord) :=
    [("NOP", 0x00000000, 0xFFFFFFFF), ("WRREG", 0x01000000, 0xFF00FFFF), ("RDREG", 0x02000000, 0xFF00FFFF),
     ("SETSR", 0x03000000, 0xFFFFFFFF), ("RESET", 0x04000000, 0xFFFFFFFF), ("BLOCK", 0x05000000, 0xFFFFFFFF),
     ("SMP", 0x06000000, 0xFFFFFEFF)]
  ∀ (cw : CmdWord) (d : Word),
    (∀ r ∈ rows, cw &&& r.2.2 = r.2.1 ↔ ∃ i, decode cw d = .cmd i ∧ i.mnemonic = r.1) ∧
    ((∀ r ∈ rows, cw &&& r.2.2 ≠ r.2.1) → ∀ (s : State) (rest : List Event), s.port = .command cw d :: rest →
      step s = .next ((s.accept rest).raise .badCmd cw))

/-- The reserved words of R144, and that every one ends with BADCMD whatever its data word. -/
def Obligations.ReservedWordsEndWithBadCmd : Prop :=
  ∀ (cw : CmdWord) (d : Word) (s : State) (rest : List Event), s.port = .command cw d :: rest →
    (7 ≤ (cw.extractLsb' 24 8).toNat ∨
      (cw.extractLsb' 24 8 ∈ ([0x00, 0x03, 0x04, 0x05, 0x06] : List (BitVec 8)) ∧
        (cw.extractLsb' 22 2 ≠ 0 ∨ cw.extractLsb' 16 6 ≠ 0)) ∨
      (cw.extractLsb' 24 8 ≠ 0x06 ∧ cw.extractLsb' 8 8 ≠ 0) ∨
      (cw.extractLsb' 24 8 = 0x06 ∧ cw.extractLsb' 9 7 ≠ 0) ∨
      cw.extractLsb' 0 8 ≠ 0) →
    step s = .next ((s.accept rest).raise .badCmd cw)

/-- The worked encodings of R150: the assembler's line, its two words, and what the decoder makes of them. -/
def Obligations.WorkedEncodings : Prop :=
  (∀ w ∈ ([("NOP", 0x00000000, 0x0000000000000000), ("SETSR 48000.0", 0x03000000, 0x40E7700000000000),
      ("WRREG PI_DRIVE, 6.0", 0x01020000, 0x4018000000000000), ("WRREG PI_ALGO, 1", 0x01010000, 0x0000000000000001),
      ("WRREG OFS_L.HPF_QOFS, 0.5", 0x017C0000, 0x3FE0000000000000),
      ("WRREG OFS_R.EQ_BASS_GAIN_OFS, -0.25", 0x01990000, 0xBFD0000000000000),
      ("WRREG STATUS, 0x3E", 0x01C10000, 0x000000000000003E), ("RDREG M_CCGR_L", 0x02CC0000, 0),
      ("RDREG ID", 0x02C00000, 0), ("RESET", 0x04000000, 0), ("BLOCK", 0x05000000, 0),
      ("SMP L, 0.5", 0x06000000, 0x3FE0000000000000), ("SMP R, -1.0", 0x06000100, 0xBFF0000000000000)] :
      List (String × CmdWord × Word)),
    ∃ i, assembleLine w.1 = some [i] ∧ encode i = w.2 ∧ decode w.2.1 w.2.2 = .cmd i) ∧
  (∀ d, decode 0x06000200 d = .badCmd ∧ decode 0x07000000 d = .badCmd ∧ decode 0x00000001 d = .badCmd) ∧
  (∀ d s, decode 0x01030000 d = .cmd (.wrreg 0 3 d) ∧ exec (.wrreg 0 3 d) s = .next (s.raise .badReg 0x01030000))

/-- The expansions of the pseudo-instructions (R149). -/
def Obligations.PseudoInstructionExpansions : Prop :=
  (∀ st f, (Pseudo.bypass st f).expand = [.wrreg 0 (match st with
      | .pi => 0x00 | .fl => 0x08 | .cc => 0x10 | .ld => 0x14 | .eq => 0x18 | .sc => 0x24 | .co => 0x2C
      | .os => 0x30 | .ov => 0x38) f]) ∧
  (∀ l r, (Pseudo.frame l r).expand = [.smp 0 l, .smp 1 r]) ∧
  Pseudo.clrstat.expand = [.wrreg 3 0x01 0x3E] ∧
  (∀ n v, (Pseudo.setofs n v).expand = [.wrreg 1 n.idx v, .wrreg 2 n.idx v]) ∧
  (∀ f s q, (Pseudo.sethpf f s q).expand = [.wrreg 0 0x09 f, .wrreg 0 0x0A s, .wrreg 0 0x0B q]) ∧
  (∀ f s q, (Pseudo.setlpf f s q).expand = [.wrreg 0 0x0C f, .wrreg 0 0x0D s, .wrreg 0 0x0E q]) ∧
  (∀ fs, (Pseudo.processblock fs).expand = .block :: fs.flatMap fun p => [.smp 0 p.1, .smp 1 p.2])

/-! ### Steps -/

/-- A step runs the decoded instruction: it takes the command off the port, keeps bank 3 as the boundary before it,
and then is `exec` of the instruction, which is well-formed.  What comes before `exec` changes nothing a command can
see.  `withFetchWord` presents a command first.  (The port is the model's own, notes/assumptions/6.md.) -/
def Obligations.StepRunsDecoded : Prop :=
  ∀ (s : State) (cw : CmdWord) (d : Word) (rest : List Event) (i : Instr),
    s.port = .command cw d :: rest → decode cw d = .cmd i →
    step s = exec i (s.accept rest) ∧ s.SameShared (s.accept rest) ∧ s.SameChannels (s.accept rest) ∧
    (s.accept rest).port = rest ∧ (s.accept rest).history = s.statBank :: s.history ∧
    (s.accept rest).seen = s.seen ∧ (s.accept rest).meterReads = s.meterReads ∧ (s.accept rest).resp = s.resp ∧
    i.WellFormed ∧
    ∀ s₀ : State, (s₀.withFetchWord 96 (cw.toNat + d.toNat * 2 ^ 32)).port = .command cw d :: s₀.port

/-- The block never stops: every step has a next state, and so has every command (R210, R707). -/
def Obligations.NeverStops : Prop :=
  (∀ s : State, ∃ t, step s = .next t) ∧ ∀ (i : Instr) (s : State), ∃ t, exec i s = .next t

/-- With nothing presented the state is held, and a power-on event restores every register and all channel state.
(The port is the model's own, notes/assumptions/6.md; which of its own counters go on, notes/assumptions/7.md.) -/
def Obligations.IdleAndPowerOnSteps : Prop :=
  (∀ s : State, s.port = [] → step s = .next s) ∧
  ∀ (s : State) (rest : List Event), s.port = .powerOn :: rest →
    ∃ t, step s = .next t ∧ State.reset.SameShared t ∧ t.port = rest ∧ t.resp = none ∧
      t.chL = { State.reset.chL with epoch := s.chL.epoch } ∧ t.chR = { State.reset.chR with epoch := s.chR.epoch }

/-- Every command leaves the ports alone and gives exactly one response: `(ERR, 0)`, or OK with a word that is 0 for
every command but RDREG and SMP (R147). -/
def Obligations.OneResponsePerCommand : Prop :=
  ∀ (i : Instr) (s t : State), exec i s = .next t → s.SamePorts t ∧
    (t.resp = some ⟨.err, 0⟩ ∨ ∃ w, t.resp = some ⟨.ok, w⟩ ∧
      (w = 0 ∨ (∃ b x, i = .rdreg b x) ∨ ∃ c d, i = .smp c d))

/-! ### Errors and status -/

/-- The common error path (R705): a command that ends in error sets one STATUS bit, loads ERRCMD with its word, answers
`(ERR, 0)` and changes nothing else; the other STATUS bits stay as they were.  The bits are sticky: only a WRREG to
STATUS clears one. -/
def Obligations.ErrorPathIsPrecise : Prop :=
  ∀ (i : Instr) (s t : State), exec i s = .next t →
    ((∃ w, t.resp = some ⟨.err, w⟩) →
      ∃ e : CmdError, t = { s with errs := t.errs, errCmd := (encodeWord i).setWidth 64, resp := some ⟨.err, 0⟩ } ∧
        ∀ n < 64, (t.regRead (.stat .status)).getLsbD n =
          ((s.regRead (.stat .status)).getLsbD n || decide (n = e.code))) ∧
    ((∃ n, (s.regRead (.stat .status)).getLsbD n = true ∧ (t.regRead (.stat .status)).getLsbD n = false) →
      ∃ v, i = .wrreg 3 0x01 v)

/-- STATUS (R63): its fields as read, the bit each error sets, that only a WRREG to STATUS clears one, what that write
does, and the reset value. -/
def Obligations.StatusRegister : Prop :=
  (∀ (s : State) (n : Nat), (s.regRead (.stat .status)).getLsbD n =
    if n = 0 then s.configured else if n ≤ 5 then s.errs.getLsbD (n - 1) else false) ∧
  (∀ (s : State) (cw : CmdWord), ((s.raise .badCmd cw).regRead (.stat .status)).getLsbD 1 = true ∧
    ((s.raise .badReg cw).regRead (.stat .status)).getLsbD 2 = true ∧
    ((s.raise .badVal cw).regRead (.stat .status)).getLsbD 3 = true ∧
    ((s.raise .srRej cw).regRead (.stat .status)).getLsbD 4 = true ∧
    ((s.raise .notCfg cw).regRead (.stat .status)).getLsbD 5 = true) ∧
  (∀ (i : Instr) (s t : State) (k : Nat), exec i s = .next t → s.errs.getLsbD k = true → t.errs.getLsbD k = false →
    ∃ v, i = .wrreg 3 0x01 v ∧ v.getLsbD (k + 1) = true) ∧
  (∀ (s : State) (v : Word), ∃ e : BitVec 5,
    exec (.wrreg 3 0x01 v) s = .next { s with errs := e, resp := some ⟨.ok, 0⟩ } ∧
    ∀ k < 5, e.getLsbD k = (s.errs.getLsbD k && !v.getLsbD (k + 1))) ∧
  State.reset.regRead (.stat .status) = 0

/-- No sticky bit blocks processing (R710): with other error bits set, and another ERRCMD, every command but a read of
STATUS or ERRCMD answers the same and leaves the same registers and channels.  (That the answers are the same word where
an SMP or a meter shows a NaN is the model's choice, notes/assumptions/1.md; R242 leaves that pattern to any value.) -/
def Obligations.StickyBitsDoNotBlock : Prop :=
  ∀ (i : Instr) (s t : State) (es : BitVec 5) (ec : Word), exec i s = .next t →
    i ≠ .rdreg 3 0x01 → i ≠ .rdreg 3 0x03 →
    ∃ t', exec i { s with errs := es, errCmd := ec } = .next t' ∧ t'.resp = t.resp ∧ t.SameChannels t' ∧
      t'.shadow = t.shadow ∧ t'.ofsL = t.ofsL ∧ t'.ofsR = t.ofsR ∧ t'.act = t.act ∧ t'.sr = t.sr ∧
      t'.configured = t.configured

/-- CONFIGURED (R44): set by the first accepted SETSR, cleared by no command, 0 at reset, and bit 0 of STATUS. -/
def Obligations.ConfiguredBit : Prop :=
  (∀ (i : Instr) (s t : State), exec i s = .next t →
    (t.configured = true ↔ s.configured = true ∨ ∃ d, i = .setsr d ∧ t.resp = some ⟨.ok, 0⟩)) ∧
  State.reset.configured = false ∧
  (∀ (s : State) (rest : List Event), s.port = .powerOn :: rest → ∃ t, step s = .next t ∧ t.configured = false) ∧
  ∀ s : State, (s.regRead (.stat .status)).getLsbD 0 = s.configured

/-! ### NOP -/

/-- NOP (R201): only the word 0 is NOP, with any data word, and it leaves every register and every state field as it
was. -/
def Obligations.NopResult : Prop :=
  (∀ (cw : CmdWord) (d : Word), decode cw d = .cmd .nop ↔ cw = 0) ∧
  ∀ s : State, exec .nop s = .next { s with resp := some ⟨.ok, 0⟩ }

/-! ### Registers: WRREG and RDREG -/

/-- `EXISTS`, `KIND` and `CODES` (R204) are the tables of R47, R51 and R53. -/
def Obligations.RegisterMap : Prop :=
  let flags : List (BitVec 6) := [0x00, 0x08, 0x10, 0x14, 0x18, 0x24, 0x2C, 0x30, 0x38]
  let enums : List (BitVec 6 × Nat) :=
    [(0x01, 4), (0x0A, 2), (0x0B, 2), (0x0D, 2), (0x0E, 2), (0x11, 2), (0x1C, 15), (0x1E, 15), (0x25, 2), (0x2D, 5),
     (0x31, 6)]
  let reals : List (BitVec 6) :=
    [0x02, 0x09, 0x0C, 0x12, 0x15, 0x16, 0x19, 0x1A, 0x1B, 0x1D, 0x1F, 0x20, 0x26, 0x27, 0x28, 0x32, 0x39]
  let offsets : List (BitVec 6) :=
    [0x02, 0x09, 0x0C, 0x12, 0x16, 0x19, 0x1A, 0x1B, 0x1D, 0x1F, 0x20, 0x26, 0x27, 0x32, 0x39, 0x3C, 0x3D, 0x3E, 0x3F]
  let stats : List (BitVec 6) :=
    [0x00, 0x01, 0x02, 0x03, 0x08, 0x09, 0x0A, 0x0B, 0x0C, 0x0D, 0x0E, 0x0F, 0x10, 0x11]
  (∀ i, (regName 0 i).isSome = (flags ++ enums.map (·.1) ++ reals).contains i) ∧
  (∀ i, (regName 1 i).isSome = offsets.contains i ∧ (regName 2 i).isSome = offsets.contains i) ∧
  (∀ i, (regName 3 i).isSome = stats.contains i) ∧
  (∀ i ∈ flags, ∃ r, regName 0 i = some (.param r) ∧ r.kind = .flag) ∧
  (∀ p ∈ enums, ∃ r, regName 0 p.1 = some (.param r) ∧ r.kind = .enum p.2) ∧
  (∀ i ∈ reals, ∃ r, regName 0 i = some (.param r) ∧ r.kind = .param) ∧
  (∀ i ∈ offsets, ∃ r, regName 1 i = some (.ofs .L r) ∧ regName 2 i = some (.ofs .R r))

/-- The kinds of a register (R46, R48, R49, R52): a flag takes 0 and 1, an enumeration its codes and no pattern with
high bits set, a real parameter every pattern but a NaN encoding, an offset the finite ones. -/
def Obligations.KindsOfRegisters : Prop :=
  ∀ d : Word,
    (Kind.flag.accepts d = true ↔ d = 0 ∨ d = 1) ∧
    (∀ n, Kind.accepts (.enum n) d = true ↔ d.toNat < n) ∧
    (Kind.param.accepts d = true ↔ ¬ (d.extractLsb' 52 11 = 0x7FF ∧ d.extractLsb' 0 52 ≠ 0)) ∧
    (Kind.offset.accepts d = true ↔ d.extractLsb' 52 11 ≠ 0x7FF)

/-- WRREG of a legal value to bank 0 (R202): the register holds exactly the value written, every other register and all
other state keep theirs. -/
def Obligations.WrregParameter : Prop :=
  ∀ (s : State) (r : PReg) (d : Word), r.kind.accepts d = true →
    exec (.wrreg 0 r.idx d) s = .next { s with shadow := s.shadow.set r d, resp := some ⟨.ok, 0⟩ } ∧
    (s.shadow.set r d).get r = d ∧ ∀ r' ≠ r, (s.shadow.set r d).get r' = s.shadow.get r'

/-- WRREG of a finite value to bank 1 or bank 2 (R202): the offset register of that channel, and nothing else. -/
def Obligations.WrregOffset : Prop :=
  ∀ (s : State) (r : OReg) (d : Word), Kind.offset.accepts d = true →
    exec (.wrreg 1 r.idx d) s = .next { s with ofsL := s.ofsL.set r d, resp := some ⟨.ok, 0⟩ } ∧
    exec (.wrreg 2 r.idx d) s = .next { s with ofsR := s.ofsR.set r d, resp := some ⟨.ok, 0⟩ } ∧
    (∀ b : OfsBank, (b.set r d).get r = d ∧ ∀ r' ≠ r, (b.set r d).get r' = b.get r')

/-- WRREG's errors (R701, R702, R706): BADREG for a reserved address and for a bank-3 register but STATUS, whatever the
value; BADVAL for an illegal value; and nothing but STATUS, ERRCMD and the response changes. -/
def Obligations.WrregErrors : Prop :=
  (∀ (s : State) (b : BitVec 2) (i : BitVec 6) (d : Word), regName b i = none ∨ (b = 3 ∧ i ≠ 0x01) →
    exec (.wrreg b i d) s = .next { s with errs := s.errs ||| 0b00010, errCmd := (packWord 0x01 b i 0).setWidth 64,
                                           resp := some ⟨.err, 0⟩ }) ∧
  (∀ (s : State) (r : PReg) (d : Word), r.kind.accepts d = false →
    exec (.wrreg 0 r.idx d) s = .next { s with errs := s.errs ||| 0b00100,
                                               errCmd := (packWord 0x01 0 r.idx 0).setWidth 64,
                                               resp := some ⟨.err, 0⟩ }) ∧
  (∀ (s : State) (c : Chan) (r : OReg) (d : Word), Kind.offset.accepts d = false →
    exec (.wrreg (RegName.ofs c r).bank r.idx d) s =
      .next { s with errs := s.errs ||| 0b00100, errCmd := (packWord 0x01 (RegName.ofs c r).bank r.idx 0).setWidth 64,
                     resp := some ⟨.err, 0⟩ })

/-- WRREG is idempotent (R106), errors included. -/
def Obligations.WrregIdempotent : Prop :=
  ∀ (b : BitVec 2) (i : BitVec 6) (d : Word) (s t : State), exec (.wrreg b i d) s = .next t →
    exec (.wrreg b i d) t = .next t

/-- RDREG of every register that exists (R203): only the response changes, and its word is the shadow value for banks 0
to 2, the constant for ID, STATUS, the pattern of SR, ERRCMD, and a pattern of the meter. -/
def Obligations.RdregResult : Prop :=
  ∀ s : State,
    (∀ r : PReg, exec (.rdreg 0 r.idx) s = .next { s with resp := some ⟨.ok, s.shadow.get r⟩ }) ∧
    (∀ r : OReg, exec (.rdreg 1 r.idx) s = .next { s with resp := some ⟨.ok, s.ofsL.get r⟩ } ∧
      exec (.rdreg 2 r.idx) s = .next { s with resp := some ⟨.ok, s.ofsR.get r⟩ }) ∧
    exec (.rdreg 3 0x00) s = .next { s with resp := some ⟨.ok, 0x0000000041430007⟩ } ∧
    exec (.rdreg 3 0x01) s = .next { s with resp := some ⟨.ok, (s.errs ++ BitVec.ofBool s.configured).setWidth 64⟩ } ∧
    exec (.rdreg 3 0x02) s = .next { s with resp := some ⟨.ok, s.sr⟩ } ∧
    exec (.rdreg 3 0x03) s = .next { s with resp := some ⟨.ok, s.errCmd⟩ } ∧
    (∀ p ∈ ([(0x08, s.chL.m.inpk), (0x09, s.chR.m.inpk), (0x0A, s.chL.m.outpk), (0x0B, s.chR.m.outpk),
        (0x0C, s.chL.m.ccgr), (0x0D, s.chR.m.ccgr), (0x0E, s.chL.m.ldgr), (0x0F, s.chR.m.ldgr),
        (0x10, s.chL.m.scgr), (0x11, s.chR.m.scgr)] : List (BitVec 6 × F64)),
      ∃ w, exec (.rdreg 3 p.1) s = .next { s with resp := some ⟨.ok, w⟩ } ∧ real w = p.2)

/-- Reading a register never changes state (R54): only the response on the port is new.  (A reserved address names no
register: its read ends with BADREG.) -/
def Obligations.ReadsChangeNothing : Prop :=
  ∀ (b : BitVec 2) (i : BitVec 6) (s : State),
    ((regName b i).isSome = true → ∃ w, exec (.rdreg b i) s = .next { s with resp := some ⟨.ok, w⟩ }) ∧
    (regName b i = none →
      exec (.rdreg b i) s = .next { s with errs := s.errs ||| 0b00010, errCmd := (packWord 0x02 b i 0).setWidth 64,
                                           resp := some ⟨.err, 0⟩ })

/-- Reading a bank-0, bank-1 or bank-2 register returns the value last written, or the reset value (R55): after an
accepted WRREG, and from reset, whatever commands but a WRREG of that register come in between. -/
def Obligations.ReadReturnsLastWrite : Prop :=
  ∀ (n : RegName) (js : List Instr), n.bank ≠ 3 → (∀ j ∈ js, ∀ d, j ≠ .wrreg n.bank n.idx d) →
    (∀ (s t u : State) (d : Word) (rs : List Response), exec (.wrreg n.bank n.idx d) s = .next t →
      t.resp = some ⟨.ok, 0⟩ → runCommands js t = some (rs, u) →
      exec (.rdreg n.bank n.idx) u = .next { u with resp := some ⟨.ok, d⟩ }) ∧
    (∀ (u : State) (rs : List Response), runCommands js State.reset = some (rs, u) →
      exec (.rdreg n.bank n.idx) u = .next { u with resp := some ⟨.ok, State.reset.regRead n⟩ })

/-! ### SETSR, RESET and BLOCK -/

/-- A sample-rate change (R742): an accepted SETSR that is the first or names another rate sets SR, resets both channels
with delay lines sized for the new rate, and changes nothing else but CONFIGURED; every coefficient is then computed at
the new rate.  One with the current rate resets nothing. -/
def Obligations.SetsrRateChange : Prop :=
  ∀ (s : State) (d : Word), c0.lt (real d) = true → real d ≠ .inf false →
    (s.configured = false ∨ (real d).feq (real s.sr) = false →
      ∃ t, exec (.setsr d) s = .next t ∧ t.sr = d ∧ t.configured = true ∧ t.resp = some ⟨.ok, 0⟩ ∧
        (∀ c, t.ChanReset c s.act (real d) ∧ (t.env params c).sr = real d) ∧
        t = { s with sr := d, configured := true, chL := t.chL, chR := t.chR, resp := t.resp }) ∧
    (s.configured = true → (real d).feq (real s.sr) = true →
      ∃ t, exec (.setsr d) s = .next t ∧ t = { s with resp := some ⟨.ok, 0⟩ })

/-- SETSR rejects a rate that is not finite and positive (R703): a NaN, a zero, a negative value, and plus infinity; the
previous rate stays in force. -/
def Obligations.SetsrRejected : Prop :=
  ∀ (s : State) (d : Word),
    ((real d).isNaN = true ∨ (real d).le c0 = true ∨ real d = .inf false ↔ rateAccepted (real d) = false) ∧
    ((real d).isNaN = true ∨ (real d).le c0 = true ∨ real d = .inf false →
      exec (.setsr d) s = .next { s with errs := s.errs ||| 0b01000, errCmd := 0x0000000003000000,
                                         resp := some ⟨.err, 0⟩ })

/-- RESET (R206, R741): both channels at the reset column, delay lines sized for the current rate, every mix at its
latched target, the meters 0.0, and nothing else changed. -/
def Obligations.ResetResult : Prop :=
  ∀ s : State, ∃ t, exec .reset s = .next t ∧ t.resp = some ⟨.ok, 0⟩ ∧ s.SameShared t ∧ s.SamePorts t ∧
    ∀ c, t.ChanReset c s.act (real s.sr)

/-- BLOCK (R207): the shadow registers and the offsets become active, both channels' peak meters are 0.0, and nothing
else changes; before configuration too. -/
def Obligations.BlockResult : Prop :=
  ∀ s : State, exec .block s = .next
    { s with
      act := ⟨s.shadow, s.ofsL, s.ofsR⟩
      chL := { s.chL with m := { s.chL.m with inpk := F64.zero false, outpk := F64.zero false } }
      chR := { s.chR with m := { s.chR.m with inpk := F64.zero false, outpk := F64.zero false } }
      resp := some ⟨.ok, 0⟩ }

/-- The active set and the rate, and with them every coefficient, change at BLOCK and at an accepted SETSR only (R45,
R208). -/
def Obligations.CoefficientsChangeOnlyAtBlockAndSetsr : Prop :=
  ∀ (i : Instr) (s t : State) (c : Chan), exec i s = .next t → t.env params c ≠ s.env params c →
    i = .block ∨ ∃ d, i = .setsr d ∧ t.resp = some ⟨.ok, 0⟩ ∧ t.sr = d

/-- Effective parameters (R57): active value plus channel offset, clamped to the range of R47; flags
and enumerations as they are; and an offset, as the Q rules read it, unclamped. -/
def Obligations.EffectiveParameters : Prop :=
  ∀ e : Env,
    (∀ x ∈ ([(.piDrive, .piDriveOfs, e.cfg.driveMinDb, e.cfg.driveMaxDb),
        (.hpfFreq, .hpfFreqOfs, F64.ofNat 20, (F64.dec 49 2).mul e.sr),
        (.lpfFreq, .lpfFreqOfs, F64.ofNat 20, (F64.dec 49 2).mul e.sr),
        (.ccThresh, .ccThreshOfs, (F64.ofNat 60).neg, F64.zero false),
        (.ldThresh, .ldThreshOfs, (F64.ofNat 80).neg, F64.zero false),
        (.eqBassGain, .eqBassGainOfs, e.cfg.eqGainMax.neg, e.cfg.eqGainMax),
        (.eqBassFreq, .eqBassFreqOfs, F64.ofNat 20,
          F64.min (F64.ofNat 1000) (((F64.dec 49 2).mul e.sr).div e.cfg.shelfDiv)),
        (.eqB1Gain, .eqB1GainOfs, e.cfg.eqGainMax.neg, e.cfg.eqGainMax),
        (.eqB2Gain, .eqB2GainOfs, e.cfg.eqGainMax.neg, e.cfg.eqGainMax),
        (.eqTrebGain, .eqTrebGainOfs, e.cfg.eqGainMax.neg, e.cfg.eqGainMax),
        (.eqTrebFreq, .eqTrebFreqOfs, F64.ofNat 1000,
          F64.min (F64.ofNat 20000) (((F64.dec 49 2).mul e.sr).div e.cfg.shelfDiv)),
        (.scIn, .scInOfs, (F64.ofNat 18).neg, F64.ofNat 60),
        (.scMakeup, .scMakeupOfs, (F64.ofNat 6).neg, F64.ofNat 24),
        (.osDrive, .osDriveOfs, e.cfg.driveMinDb, e.cfg.driveMaxDb),
        (.ovGain, .ovGainOfs, e.cfg.ovMinDb, e.cfg.ovMaxDb)] : List (PReg × OReg × F64 × F64)),
      e.p x.1 = F64.clamp ((real (e.act.param.get x.1)).add (real ((e.act.ofs e.chan).get x.2.1))) x.2.2.1 x.2.2.2) ∧
    e.p .ldRatio = F64.clamp (real e.act.param.ldRatio) (F64.ofNat 1).neg (F64.ofNat 1) ∧
    e.p .scMix = F64.clamp (real e.act.param.scMix) (F64.zero false) (F64.ofNat 100) ∧
    (∀ r : PReg, e.code r = (e.act.param.get r).toNat) ∧
    ∀ r : OReg, e.ofs r = real ((e.act.ofs e.chan).get r)

/-! ### SMP -/

/-- SMP of a configured block (R209): it completes with OK and a pattern of what the chain returns; the channel's engine
is the chain's, its sample count one more; the other engine and all shared state are kept. -/
def Obligations.SmpResult : Prop :=
  ∀ (s : State) (c : Chan) (d : Word), s.configured = true →
    ∃ t w, exec (smpOf c d) s = .next t ∧ t.resp = some ⟨.ok, w⟩ ∧
      real w = (chain (s.env params c) (s.chan c) (real d)).2 ∧
      t.chan c = { (chain (s.env params c) (s.chan c) (real d)).1 with epoch := (s.chan c).epoch + 1 } ∧
      (∀ c' ≠ c, t.chan c' = s.chan c') ∧ s.SameShared t ∧ s.SamePorts t

/-- SMP before the first accepted SETSR (R704, R209): NOTCFG, and no channel state, no meter changes. -/
def Obligations.SmpNotConfigured : Prop :=
  ∀ (s : State) (c : Chan) (d : Word), s.configured = false →
    exec (smpOf c d) s = .next { s with errs := s.errs ||| 0b10000,
                                        errCmd := (packWord 0x06 0 0 (BitVec.ofNat 8 (chanNum c))).setWidth 64,
                                        resp := some ⟨.err, 0⟩ }

/-- The example of R209: from power-on, SETSR 48000.0 and then SMP L, 0.5 give `(OK, 0x3FE0000000000000)`.  (At the
OPEN defaults, notes/assumptions/4.md.) -/
def Obligations.SmpExample : Prop :=
  ∃ t u, exec (.setsr 0x40E7700000000000) State.reset = .next t ∧ exec (.smp 0 0x3FE0000000000000) t = .next u ∧
    u.resp = some ⟨.ok, 0x3FE0000000000000⟩

/-- SMP reads nothing but CONFIGURED, the rate, the active set and its own channel (R45, R60, R209): two states that
agree on those give the same response and the same channel, whatever else they hold.  (That the response is the same
word where the output is a NaN is the model's choice, notes/assumptions/1.md; R242 leaves that pattern to any value.) -/
def Obligations.SmpReadsOnlyItsChannel : Prop :=
  ∀ (s s' t t' : State) (c : Chan) (d : Word), s.sr = s'.sr → s.act = s'.act → s.configured = s'.configured →
    s.chan c = s'.chan c → exec (smpOf c d) s = .next t → exec (smpOf c d) s' = .next t' →
    t.resp = t'.resp ∧ t.chan c = t'.chan c

/-- The two channels are independent (R112), in a configured block: two orders of SMPs that agree on each channel's
samples give each channel the same outputs, and leave the same state.  (That the outputs are the same words where one is
a NaN is the model's choice, notes/assumptions/1.md; R242 leaves that pattern to any value.) -/
def Obligations.ChannelsInterleaveFreely : Prop :=
  ∀ (s : State) (xs ys : List (Chan × Word)), s.configured = true → (∀ c, samplesOf c xs = samplesOf c ys) →
    ∃ rs rs' t t', runCommands (smps xs) s = some (rs, t) ∧ runCommands (smps ys) s = some (rs', t') ∧
      (∀ c, responsesOf c xs rs = responsesOf c ys rs') ∧ t' = { t with resp := t'.resp }

/-- The latch hazard (R750): after a WRREG to bank 0, 1 or 2, any commands without a BLOCK answer as without it, reads
apart, and leave the channels, the rate and `ACT` as without it; and a read shows the new value at once if it was
accepted.  (That an SMP answers with the same word where its output is a NaN is the model's choice,
notes/assumptions/1.md; R242 leaves that pattern to any value.) -/
def Obligations.WritesWaitForBlock : Prop :=
  ∀ (s t : State) (b : BitVec 2) (i : BitVec 6) (d : Word) (js : List Instr), b ≠ 3 → .block ∉ js →
    exec (.wrreg b i d) s = .next t →
    (∃ rs rs' u v, runCommands js s = some (rs, u) ∧ runCommands js t = some (rs', v) ∧ u.SameChannels v ∧
      v.act = u.act ∧ v.sr = u.sr ∧ v.configured = u.configured ∧
      ∀ n : Nat, (∀ (b' : BitVec 2) (i' : BitVec 6), js[n]? ≠ some (Instr.rdreg b' i')) → rs'[n]? = rs[n]?) ∧
    (t.resp = some ⟨.ok, 0⟩ → exec (.rdreg b i) t = .next { t with resp := some ⟨.ok, d⟩ })

/-! ### The chain -/

/-- The chain (R290): nine stages in order, the input peak before and the output peak after. -/
def Obligations.ChainOrder : Prop :=
  ∀ (e : Env) (s : ChanState) (x : F64),
    let r1 := wrap e .pi { s with m := { s.m with inpk := F64.max s.m.inpk x.abs } } x
    let r2 := wrap e .fl r1.1 r1.2
    let r3 := wrap e .cc r2.1 r2.2
    let r4 := wrap e .ld r3.1 r3.2
    let r5 := wrap e .eq r4.1 r4.2
    let r6 := wrap e .sc r5.1 r5.2
    let r7 := wrap e .co r6.1 r6.2
    let r8 := wrap e .os r7.1 r7.2
    let r9 := wrap e .ov r8.1 r8.2
    chain e s x = ({ r9.1 with m := { r9.1.m with outpk := F64.max r9.1.m.outpk r9.2.abs } }, r9.2)

/-- The bypass wrapper (R291, R292): the kernel runs on the flushed input, the mix moves to its target and snaps within
the tolerance, and the output blends wet and unflushed dry with the updated mix. -/
def Obligations.BypassWrapper : Prop :=
  ∀ (e : Env) (k : Stage) (s : ChanState) (x : F64),
    let wet := kernel e k s (dnz e.cfg.denormMode x)
    let t := if e.act.param.get k.bypass = 1 then F64.ofNat 1 else F64.zero false
    let fc := F64.min (F64.ofNat 1) ((F64.ofNat 1).div ((F64.dec 1 2).mul e.sr))
    let n := (s.mix.get k).add ((t.sub (s.mix.get k)).mul fc)
    let m := if (t.sub n).abs.lt e.cfg.bypassEps then t else n
    wrap e k s x = ({ wet.1 with mix := s.mix.set k m }, (wet.2.mul ((F64.ofNat 1).sub m)).add (x.mul m))

/-- The corners of the wrapper's output (R293): dry through at mix 1.0, wet through at mix 0.0, and how a value that is
not finite spreads. -/
def Obligations.CrossfadeCorners : Prop :=
  (∀ wet x : F64, wet.isFinite = true → x ≠ F64.zero true → crossfade wet x c1 = x) ∧
  (∀ (s : Bool) (e : Fin 2047) (f : BitVec 52), crossfade (.fin s e f) (F64.zero true) c1 = F64.zero s) ∧
  (∀ wet x : F64, x.isFinite = true → wet ≠ F64.zero true → crossfade wet x c0 = wet) ∧
  (∀ (s : Bool) (e : Fin 2047) (f : BitVec 52), crossfade (F64.zero true) (.fin s e f) c0 = F64.zero s) ∧
  (∀ wet x : F64, wet.isFinite = false → crossfade wet x c1 = .nan) ∧
  (∀ wet m : F64, crossfade wet .nan m = .nan) ∧
  (∀ (wet : F64) (s : Bool), crossfade wet (.inf s) c0 = .nan)

/-- The three gain meters and the peaks after one sample (R65, R298): the Control-Comp's is its new gain in dB, the
Low-Dynamic's the gain its kernel applied to what the first three stages let through, the Style-Comp's the new gain of the
selected algorithm in dB; the peaks are raised to the input and output magnitudes. -/
def Obligations.MetersOfOneSample : Prop :=
  ∀ (e : Env) (s : ChanState) (x : F64),
    let pre := runStages e [.pi, .fl, .cc] (s.meterIn x) x
    let ld := ldyn e (dnz e.cfg.denormMode pre.2) s.ld
    (chain e s x).1.m.ccgr = lin2db e.cfg.libm (chain e s x).1.cc.gain ∧
    (chain e s x).1.m.ldgr = ld.2.2 ∧ (chain e s x).1.ld = ld.1 ∧
    (chain e s x).1.m.scgr = lin2db e.cfg.libm
      (if e.act.param.scAlgo = 0 then (chain e s x).1.sc.warm.gain else (chain e s x).1.sc.punch.gain) ∧
    (chain e s x).1.m.inpk = F64.max s.m.inpk x.abs ∧
    (chain e s x).1.m.outpk = F64.max s.m.outpk (chain e s x).2.abs

/-- Kernels that a selector does not choose hold their state (R296): the saturators, the second filter sections, the
Style-Comp algorithms and the Console. -/
def Obligations.DeselectedKernelsHold : Prop :=
  ∀ (e : Env) (x : F64),
    (∀ st : PiSat,
      (e.code .piAlgo ≠ 1 → (satPi e x st).1.purePrev = st.purePrev) ∧
      (e.code .piAlgo ≠ 2 → (satPi e x st).1.tape = st.tape) ∧
      (e.code .piAlgo < 3 → (satPi e x st).1.tubePrev = st.tubePrev)) ∧
    (∀ st : OsSat,
      (e.code .osAlgo ≠ 1 → (satOs e x st).1.purePrev = st.purePrev) ∧
      (e.code .osAlgo ≠ 2 → (satOs e x st).1.tape = st.tape) ∧
      (e.code .osAlgo ≠ 3 → (satOs e x st).1.tubePrev = st.tubePrev) ∧
      (e.code .osAlgo ≠ 4 → (satOs e x st).1.hardClipped = st.hardClipped) ∧
      (e.code .osAlgo < 5 → (satOs e x st).1.softLast = st.softLast)) ∧
    (∀ st : Filters,
      (e.code .hpfSlope = 0 → (filt e x st).1.hpf1 = st.hpf1) ∧
      (e.code .lpfSlope = 0 → (filt e x st).1.lpf1 = st.lpf1)) ∧
    (∀ st : StyleComp,
      (e.code .scAlgo = 0 → (scomp e x st).1.punch = st.punch) ∧
      (e.code .scAlgo ≠ 0 → (scomp e x st).1.warm = st.warm)) ∧
    (∀ st : Console,
      (e.code .coProfile = 0 → (cons e x st).1 = st) ∧
      (e.code .coProfile ≠ 1 → (cons e x st).1.purePrev = st.purePrev) ∧
      (e.code .coProfile < 2 → (cons e x st).1.rng = st.rng ∧ (cons e x st).1.hpFlip = st.hpFlip ∧
        (cons e x st).1.lpA = st.lpA ∧ (cons e x st).1.lpB = st.lpB ∧ (cons e x st).1.h1 = st.h1 ∧
        (cons e x st).1.h2 = st.h2))

/-! ### Kernels -/

/-- The drive map (R341, R342): a drive of 0 dB or below adds no character at all, and only a negative one attenuates. -/
def Obligations.DriveBelowZeroHasNoCharacter : Prop :=
  ∀ (lib : Libm) (d : F64), d.le c0 = true →
    (driveMap lib d).ch = F64.zero false ∧ (driveMap lib d).g = lib.pow (F64.ofNat 10) (d.div (F64.ofNat 20)) ∧
    (driveMap lib d).att = if d.lt c0 then (driveMap lib d).g else F64.ofNat 1

/-- At 0 dB Clean and the output volume return their input exactly (R343, R300).  (With the default LIBM,
notes/assumptions/5.md.) -/
def Obligations.UnityGainIsIdentity : Prop :=
  (∀ x : F64, clean (driveMap params.libm c0).g x = x) ∧
  ∀ (e : Env) (x : F64), e.cfg = params → e.p .ovGain = c0 → ovol e x = x

/-- Pure is neutral at `ch = 0` (R350): for a finite input and memory it returns its input, whatever the sine is, as long
as that is finite. -/
def Obligations.PureIsNeutralWithoutCharacter : Prop :=
  ∀ (lib : Libm) (prev x : F64), x.isFinite = true → x ≠ F64.zero true → (lib.sin x).isFinite = true →
    (prev.add (lib.sin x)).isFinite = true →
    pureDefault lib prev c0 x = (lib.sin x, x)

/-- Hard Clip (R366): at the ceiling on either side, the recovery sample after a clip, and no memory otherwise. -/
def Obligations.HardClip : Prop :=
  ∀ (cfg : Params) (st : Clipped) (g x : F64),
    let v := x.mul g
    let c := cfg.clipCeil
    let k := F64.dec 6180339887498949 16
    (c.lt v = true → hardStep cfg st g x = (.pos, c.div g)) ∧
    (c.lt v = false → v.lt c.neg = true → hardStep cfg st g x = (.neg, c.neg.div g)) ∧
    (c.lt v = false → v.lt c.neg = false → hardStep cfg .pos g x =
      (.no, ((v.mul k).add (c.mul ((F64.ofNat 1).sub k))).div g)) ∧
    (c.lt v = false → v.lt c.neg = false → hardStep cfg .neg g x =
      (.no, ((v.mul k).sub (c.mul ((F64.ofNat 1).sub k))).div g)) ∧
    (c.lt v = false → v.lt c.neg = false → hardStep cfg .no g x = (.no, v.div g))

/-- Low-Dynamic at ratio 0 (R459): the input comes out unchanged, the gain state and the meter are 0.0, and the detector
and the warm-up counter still run. -/
def Obligations.LowDynamicExactBypass : Prop :=
  ∀ (e : Env) (x : F64) (st : LowDynamic), (e.p .ldRatio).feq c0 = true →
    (ldyn e x st).2.1 = x ∧ (ldyn e x st).2.2 = F64.zero false ∧ (ldyn e x st).1.gdb = F64.zero false ∧
    (ldyn e x st).1.ms = msStep e st.ms x ∧ (ldyn e x st).1.warm = min (st.warm + 1) (max st.warm 100)

/-- The warm-up (R457): every LD step, at any ratio, counts one up to 100 and stays there, and in the first 100 the
applied gain, if it is a number, is within 6 dB. -/
def Obligations.WarmUpCountsAndClamps : Prop :=
  ∀ (e : Env) (x : F64) (st : LowDynamic), st.warm ≤ 100 →
    (ldyn e x st).1.warm = min (st.warm + 1) 100 ∧
    (st.warm < 100 → (ldyn e x st).2.2.isNaN = false →
      (ldyn e x st).2.2.le (F64.ofNat 6) = true ∧ (F64.ofNat 6).neg.le (ldyn e x st).2.2 = true)

/-- A flip shelf (R492): the bank that the flip bit selects runs, the other holds its state, and after two samples the
bit is back. -/
def Obligations.ShelfBanksAlternate : Prop :=
  ∀ (mode : DenormMode) (q : Coeffs) (x y : F64) (st : Shelf),
    (st.flip = false → (shelfStep mode q x st).1.bankB = st.bankB ∧
      (shelfStep mode q x st).1.bankA = (biq mode st.bankA q x).1 ∧
      (shelfStep mode q x st).2 = (biq mode st.bankA q x).2) ∧
    (st.flip = true → (shelfStep mode q x st).1.bankA = st.bankA ∧
      (shelfStep mode q x st).1.bankB = (biq mode st.bankB q x).1 ∧
      (shelfStep mode q x st).2 = (biq mode st.bankB q x).2) ∧
    (shelfStep mode q x st).1.flip = !st.flip ∧
    (shelfStep mode q y (shelfStep mode q x st).1).1.flip = st.flip

/-! ### Numeric primitives -/

/-- `dnz` (R243): only a subnormal is changed, to a zero of its sign or to the tiny value with its sign; a zero, a normal,
an infinity and a NaN are kept. -/
def Obligations.SubnormalFlush : Prop :=
  ∀ (x v : F64),
    (x.isSubnormal = false → ∀ mode, dnz mode x = x) ∧
    (∀ (s : Bool) (e : Fin 2047) (f : BitVec 52), x = .fin s e f → x.isSubnormal = true →
      dnz .ftz x = F64.zero s ∧ dnz (.tiny v) x = if s then v.neg else v) ∧
    (x.isSubnormal = true ↔ ∃ s e f, x = .fin s e f ∧ e.val = 0 ∧ f ≠ 0)

/-- Comparison and selection on reals (R17): NaN compares false, the zeros are equal, `min` and `max` with a NaN, the
upper bound of `clamp`, `abs` and `sign`.  (The clause on `clamp` is for an `x` that is not a NaN.) -/
def Obligations.ComparisonAndSelection : Prop :=
  (∀ a : F64, a.lt .nan = false ∧ F64.nan.lt a = false ∧ a.le .nan = false ∧ F64.nan.le a = false ∧
    a.feq .nan = false ∧ F64.nan.feq a = false) ∧
  (F64.zero false).feq (F64.zero true) = true ∧
  (∀ a b : F64, F64.min a b = (if b.lt a then b else a) ∧ F64.max a b = (if a.lt b then b else a)) ∧
  (∀ a : F64, F64.min a .nan = a ∧ F64.max a .nan = a ∧ F64.min .nan a = .nan ∧ F64.max .nan a = .nan) ∧
  (∀ x lo hi : F64, x.isNaN = false → hi.lt lo = true → F64.clamp x lo hi = hi) ∧
  (∀ (s : Bool) (e : Fin 2047) (f : BitVec 52), F64.abs (.fin s e f) = .fin false e f ∧
    F64.abs (.inf s) = .inf false) ∧
  (∀ x : F64, x.sign = if c0.lt x then F64.ofNat 1 else if x.lt c0 then (F64.ofNat 1).neg else F64.zero false)

/-- The special operands that R18 names, of the default LIBM. -/
def Obligations.LibrarySpecialOperands : Prop :=
  (∀ s, libmDefault.log10 (F64.zero s) = .inf true) ∧
  (∀ x : F64, x.lt c0 = true → libmDefault.log10 x = .nan) ∧
  libmDefault.exp (.inf true) = F64.zero false

/-- `xorshift32` (R270): its three shifts, that it maps no word but 0 to 0, and that every seed of the instance is not
0.  (That a PRNG word in a state is never 0 is a clause of the invariant.) -/
def Obligations.XorshiftNeverZero : Prop :=
  (∀ s : BitVec 32, xorshift32 s =
    let a := s ^^^ (s <<< 13)
    let b := a ^^^ (a >>> 17)
    b ^^^ (b <<< 5)) ∧
  (∀ s : BitVec 32, s ≠ 0 → xorshift32 s ≠ 0) ∧
  ∀ c, tapeSeedPi params c ≠ 0 ∧ tapeSeedOs params c ≠ 0 ∧ coSeed params c ≠ 0

/-- The delay line of a Tape step (R357, R358): the cell at the write index gets the flushed sample, every other cell and
the length are kept, the write index moves on around the line, and the PRNG word advances once, whatever `ch` is. -/
def Obligations.TapeStepWritesOneCell : Prop :=
  ∀ (cfg : Params) (sr : F64) (t : Tape) (ch x : F64), t.line.wf → t.w < t.line.len →
    let t' := (tapeStep cfg sr t ch x).1
    t'.line.read t.w = dnz cfg.denormMode (compandEnc cfg.libm x (cfg.tapeCompand.mul ch)) ∧
    (∀ j ≠ t.w, t'.line.read j = t.line.read j) ∧
    t'.line.len = t.line.len ∧ t'.line.wf ∧ t'.w = (t.w + 1) % t.line.len ∧ t'.w < t'.line.len ∧
    t'.rng = xorshift32 t.rng

/-! ### The meter port -/

/-- A meter-port read (R108): it returns what the register held at a command boundary that is not before the one the last
read of it returned and not after the present, and changes nothing a command can see.  (The two ports are the model's
own, notes/assumptions/3.md; that a NaN meter keeps its word is the choice of notes/assumptions/1.md.) -/
def Obligations.MeterPortReads : Prop :=
  ∀ (s : State) (idx : BitVec 6) (rest : List Event) (r : SReg), s.MeterSound → s.port = .meterRead idx :: rest →
    SReg.ofIdx idx = some r →
    ∃ t k, step s = .next t ∧ s.seen[idx.toNat] ≤ k ∧ k ≤ s.history.length ∧
      t.meterResp = some ((s.boundary k).get r) ∧ t.seen[idx.toNat] = k ∧
      (∀ j : BitVec 6, j ≠ idx → t.seen[j.toNat] = s.seen[j.toNat]) ∧
      s.SameShared t ∧ s.SameChannels t ∧ t.resp = s.resp ∧ t.history = s.history ∧ t.port = rest

/-- A meter-port read of a reserved index returns 0 and records no error (R110); one of ID, STATUS, SR or ERRCMD returns
what that register held at some command boundary. -/
def Obligations.MeterPortReservedIndex : Prop :=
  ∀ (s : State) (idx : BitVec 6) (rest : List Event), s.port = .meterRead idx :: rest →
    ∃ t, step s = .next t ∧ t.errs = s.errs ∧ t.errCmd = s.errCmd ∧
      (SReg.ofIdx idx = none → t.meterResp = some 0) ∧
      (∀ r ∈ ([.id, .status, .sr, .errCmd] : List SReg), SReg.ofIdx idx = some r →
        ∃ k, t.meterResp = some ((s.boundary k).get r))

/-- The boundaries that a meter-port read may return are settled (R108): a command keeps all the earlier ones and adds
the one before it; the latest is bank 3 as it is. -/
def Obligations.CommandBoundariesAreKept : Prop :=
  ∀ (s t : State) (cw : CmdWord) (d : Word) (rest : List Event), s.port = .command cw d :: rest → step s = .next t →
    t.history.length = s.history.length + 1 ∧ (∀ k ≤ s.history.length, t.boundary k = s.boundary k) ∧
    s.boundary s.history.length = s.statBank

/-- Eventual visibility (R109): for every way to settle how far behind a read is that is fair to each index, if no
command comes, every read of a register from some number of reads of it on returns its current value, whatever other
indices are read between.  A meter-port read of this machine is one with the free value `meterLag`.  (How the staleness
is represented is the model's choice, notes/assumptions/3.md, and that a NaN meter keeps its word is that of
notes/assumptions/1.md; R109 makes the fairness an assumption.) -/
def Obligations.MeterPortEventuallyCurrent : Prop :=
  (∀ (s : State) (idx : BitVec 6) (rest : List Event), s.port = .meterRead idx :: rest →
    step s = .next ((s.withPort rest).meterReadWith meterLag idx)) ∧
  ∀ lag : Nat → Nat → Nat, MeterFair lag → ∀ (s : State) (idx : BitVec 6) (r : SReg), s.MeterSound →
    SReg.ofIdx idx = some r →
    ∃ n, ∀ before : List (BitVec 6), n ≤ before.count idx →
      ((s.readMeters lag before).meterReadWith lag idx).meterResp = some (s.statBank.get r)
end

