-- ==== Sys2Proof/Laws/Tape.lean ====
section
/-!
SUPPORT. The Tape delay line: a read after a write, and the canonical form, which every operation keeps.
-/

namespace Sys2Proof.Machine

theorem readCells_of_lt {l : List (Nat × F64)} {i : Nat} (h : ∀ p ∈ l, i < p.1) :
    readCells l i = TapeLine.blank := by
  induction l with
  | nil => rfl
  | cons p l ih =>
    have hp : ¬ p.1 = i := by have := h p (by simp); omega
    simp only [readCells, hp, if_false]
    exact ih fun q hq => h q (by simp [hq])

theorem readCells_writeCells_self {l : List (Nat × F64)} (h : l.Pairwise (fun p q => p.1 < q.1)) (i : Nat) (v : F64) :
    readCells (writeCells l i v) i = v := by
  induction l with
  | nil => by_cases hv : v = TapeLine.blank <;> simp [writeCells, readCells, hv]
  | cons p l ih =>
    obtain ⟨a, x⟩ := p
    rw [List.pairwise_cons] at h
    unfold writeCells
    by_cases h1 : i < a
    · have hl : ∀ q ∈ (a, x) :: l, i < q.1 := by
        intro q hq
        rcases List.mem_cons.mp hq with rfl | hq
        · exact h1
        · have := h.1 q hq; simp at this; omega
      by_cases hv : v = TapeLine.blank
      · simp only [h1, hv, if_true]; exact readCells_of_lt hl
      · simp [h1, hv, readCells]
    · by_cases h2 : i = a
      · subst h2
        by_cases hv : v = TapeLine.blank
        · simp only [lt_irrefl, if_false, if_true, hv]
          exact readCells_of_lt fun q hq => h.1 q hq
        · simp [hv, readCells]
      · have h3 : ¬ a = i := fun e => h2 e.symm
        simp only [h1, h2, if_false, readCells, h3]
        exact ih h.2

theorem readCells_writeCells_of_ne {l : List (Nat × F64)} (h : l.Pairwise (fun p q => p.1 < q.1)) {i j : Nat}
    (hij : j ≠ i) (v : F64) : readCells (writeCells l i v) j = readCells l j := by
  induction l with
  | nil => by_cases hv : v = TapeLine.blank <;> simp [writeCells, readCells, hv, hij.symm]
  | cons p l ih =>
    obtain ⟨a, x⟩ := p
    rw [List.pairwise_cons] at h
    unfold writeCells
    by_cases h1 : i < a
    · by_cases hv : v = TapeLine.blank <;> simp [h1, hv, readCells, hij.symm]
    · by_cases h2 : i = a
      · subst h2
        by_cases hv : v = TapeLine.blank <;> simp [hv, readCells, hij.symm]
      · simp only [h1, h2, if_false, readCells, ih h.2]

theorem mem_writeCells {l : List (Nat × F64)} {i : Nat} {v : F64} {q : Nat × F64} (h : q ∈ writeCells l i v) :
    q ∈ l ∨ (q = (i, v) ∧ v ≠ TapeLine.blank) := by
  induction l with
  | nil => by_cases hv : v = TapeLine.blank <;> simp_all [writeCells]
  | cons p l ih =>
    obtain ⟨a, x⟩ := p
    unfold writeCells at h
    split_ifs at h with h1 h2 h3 h4
    · exact .inl h
    · rcases List.mem_cons.mp h with rfl | h
      · exact .inr ⟨rfl, h2⟩
      · exact .inl h
    · exact .inl (List.mem_cons_of_mem _ h)
    · rcases List.mem_cons.mp h with rfl | h
      · exact .inr ⟨rfl, h4⟩
      · exact .inl (List.mem_cons_of_mem _ h)
    · rcases List.mem_cons.mp h with rfl | h
      · exact .inl (by simp)
      · rcases ih h with h | h
        · exact .inl (List.mem_cons_of_mem _ h)
        · exact .inr h

theorem writeCells_pairwise {l : List (Nat × F64)} (h : l.Pairwise (fun p q => p.1 < q.1)) (i : Nat) (v : F64) :
    (writeCells l i v).Pairwise (fun p q => p.1 < q.1) := by
  induction l with
  | nil => by_cases hv : v = TapeLine.blank <;> simp [writeCells, hv]
  | cons p l ih =>
    obtain ⟨a, x⟩ := p
    have h' := h
    rw [List.pairwise_cons] at h
    unfold writeCells
    split_ifs with h1 h2 h3 h4
    · exact h'
    · refine List.pairwise_cons.mpr ⟨?_, h'⟩
      intro q hq
      rcases List.mem_cons.mp hq with rfl | hq
      · exact h1
      · have := h.1 q hq; simp at this ⊢; omega
    · exact h.2
    · subst h3; exact List.pairwise_cons.mpr ⟨fun q hq => h.1 q hq, h.2⟩
    · refine List.pairwise_cons.mpr ⟨?_, ih h.2⟩
      intro q hq
      rcases mem_writeCells hq with hq | ⟨rfl, _⟩
      · exact h.1 q hq
      · simp; omega

/-- A read after a write to the same cell gives the value written. -/
theorem TapeLine.read_write_self {l : TapeLine} (h : l.wf) (i : Nat) (v : F64) : (l.write i v).read i = v :=
  readCells_writeCells_self h.1 i v

/-- A write leaves every other cell alone. -/
theorem TapeLine.read_write_of_ne {l : TapeLine} (h : l.wf) {i j : Nat} (hij : j ≠ i) (v : F64) :
    (l.write i v).read j = l.read j :=
  readCells_writeCells_of_ne h.1 hij v

@[simp] theorem TapeLine.write_len (l : TapeLine) (i : Nat) (v : F64) : (l.write i v).len = l.len := rfl

/-- A write inside the line keeps the canonical form. -/
theorem TapeLine.write_wf {l : TapeLine} (h : l.wf) {i : Nat} (hi : i < l.len) (v : F64) : (l.write i v).wf := by
  refine ⟨writeCells_pairwise h.1 i v, fun q hq => ?_⟩
  rcases mem_writeCells hq with hq | ⟨rfl, hv⟩
  · exact h.2 q hq
  · exact ⟨hi, hv⟩

/-- A cleared line is in canonical form. -/
@[simp] theorem TapeLine.clear_wf (len : Nat) : (TapeLine.clear len).wf :=
  ⟨List.Pairwise.nil, fun _ h => absurd h (List.not_mem_nil)⟩

@[simp] theorem TapeLine.clear_len (len : Nat) : (TapeLine.clear len).len = len := rfl

@[simp] theorem TapeLine.clear_read (len i : Nat) : (TapeLine.clear len).read i = TapeLine.blank := rfl

/-- A listed cell of a written line is the one written or was listed before. -/
theorem TapeLine.mem_write {l : TapeLine} {i : Nat} {v : F64} {q : Nat × F64} (h : q ∈ (l.write i v).cells) :
    q ∈ l.cells ∨ q = (i, v) :=
  (mem_writeCells h).imp id And.left

/-- A remainder is an index of the line. -/
theorem modIndex_lt (a : Int) {len : Nat} (h : 0 < len) : modIndex a len < len := by
  have h1 := Int.emod_nonneg a (b := (len : Int)) (by omega)
  have h2 := Int.emod_lt_of_pos a (b := (len : Int)) (by omega)
  unfold modIndex
  omega

/-- A delay line has at least two cells (R61). -/
theorem two_le_tapeBuf (cfg : Config.Params) (sr : F64) : 2 ≤ tapeBuf cfg sr := Nat.le_add_left _ _

end Sys2Proof.Machine
end

