-- ==== Sys2Proof/Laws/Chain.lean ====
section
/-!
SUPPORT. The chain: which fields of a channel a stage writes, and the values `dnz` lets into a recurrence.
-/

namespace Sys2Proof.Machine

open Config

/-! ### What a stage leaves alone -/

@[simp] theorem kernel_mix (e : Env) (k : Stage) (s : ChanState) (x : F64) : (kernel e k s x).1.mix = s.mix := by
  cases k <;> simp only [kernel]

@[simp] theorem kernel_epoch (e : Env) (k : Stage) (s : ChanState) (x : F64) :
    (kernel e k s x).1.epoch = s.epoch := by
  cases k <;> simp only [kernel]

@[simp] theorem kernel_inpk (e : Env) (k : Stage) (s : ChanState) (x : F64) :
    (kernel e k s x).1.m.inpk = s.m.inpk := by
  cases k <;> simp only [kernel]

@[simp] theorem kernel_outpk (e : Env) (k : Stage) (s : ChanState) (x : F64) :
    (kernel e k s x).1.m.outpk = s.m.outpk := by
  cases k <;> simp only [kernel]

@[simp] theorem wrap_mix (e : Env) (k : Stage) (s : ChanState) (x : F64) :
    (wrap e k s x).1.mix = s.mix.set k (nextMix e.cfg e.sr (bypassTarget e.act k) (s.mix.get k)) := rfl

@[simp] theorem wrap_epoch (e : Env) (k : Stage) (s : ChanState) (x : F64) : (wrap e k s x).1.epoch = s.epoch := by
  simp [wrap]

@[simp] theorem wrap_inpk (e : Env) (k : Stage) (s : ChanState) (x : F64) :
    (wrap e k s x).1.m.inpk = s.m.inpk := by
  simp [wrap]

@[simp] theorem wrap_outpk (e : Env) (k : Stage) (s : ChanState) (x : F64) :
    (wrap e k s x).1.m.outpk = s.m.outpk := by
  simp [wrap]

@[simp] theorem Mixes.get_set_self (m : Mixes) (k : Stage) (v : F64) : (m.set k v).get k = v := by
  cases k <;> rfl

theorem Mixes.get_set_of_ne (m : Mixes) {k j : Stage} (h : j ≠ k) (v : F64) : (m.set k v).get j = m.get j := by
  cases k <;> cases j <;> first | rfl | exact absurd rfl h

/-- Stages one after the other. -/
theorem runStages_append (e : Env) (ks js : List Stage) (s : ChanState) (x : F64) :
    runStages e (ks ++ js) s x = runStages e js (runStages e ks s x).1 (runStages e ks s x).2 := by
  induction ks generalizing s x with
  | nil => rfl
  | cons k ks ih => exact ih _ _

/-- What every stage of a list keeps, the list keeps. -/
theorem runStages_induct (e : Env) {motive : ChanState → Prop}
    (hw : ∀ k s x, motive s → motive (wrap e k s x).1) (ks : List Stage) (s : ChanState) (x : F64) (h : motive s) :
    motive (runStages e ks s x).1 := by
  induction ks generalizing s x with
  | nil => exact h
  | cons k ks ih => exact ih _ _ (hw k s x h)

@[simp] theorem runStages_inpk (e : Env) (ks : List Stage) (s : ChanState) (x : F64) :
    (runStages e ks s x).1.m.inpk = s.m.inpk :=
  runStages_induct e (motive := fun t => t.m.inpk = s.m.inpk) (fun k t x h => by simp [h]) ks s x rfl

@[simp] theorem runStages_outpk (e : Env) (ks : List Stage) (s : ChanState) (x : F64) :
    (runStages e ks s x).1.m.outpk = s.m.outpk :=
  runStages_induct e (motive := fun t => t.m.outpk = s.m.outpk) (fun k t x h => by simp [h]) ks s x rfl

/-- The peak meters after a chain. -/
theorem chain_inpk (e : Env) (s : ChanState) (x : F64) :
    (chain e s x).1.m.inpk = F64.max s.m.inpk x.abs := by
  simp [chain, ChanState.meterIn, ChanState.meterOut]

theorem chain_outpk (e : Env) (s : ChanState) (x : F64) :
    (chain e s x).1.m.outpk = F64.max s.m.outpk (chain e s x).2.abs := by
  simp [chain, ChanState.meterIn, ChanState.meterOut]

/-! ### Values that reach a recurrence -/

/-- Flushing to zero leaves no subnormal (R243). -/
@[simp] theorem dnz_ftz_isSubnormal (x : F64) : (dnz .ftz x).isSubnormal = false := by
  unfold dnz
  split
  · dsimp only
    split <;> decide
  · simp_all

/-- Every value but a subnormal is kept (R243). -/
theorem dnz_of_not_subnormal (mode : DenormMode) {x : F64} (h : x.isSubnormal = false) : dnz mode x = x := by
  simp [dnz, h]

@[simp] theorem biq_ftz_s1 (s : Biquad) (q : Coeffs) (x : F64) : (biq .ftz s q x).1.s1.isSubnormal = false :=
  dnz_ftz_isSubnormal _

@[simp] theorem biq_ftz_s2 (s : Biquad) (q : Coeffs) (x : F64) : (biq .ftz s q x).1.s2.isSubnormal = false :=
  dnz_ftz_isSubnormal _

/-- All that a Tape step does to its instance but the values it stores: the line keeps its length and gets one cell,
the write index moves on, and the PRNG word advances once. -/
theorem tapeStep_frame (cfg : Params) (sr : F64) (t : Tape) (ch x : F64) :
    (∃ v, (tapeStep cfg sr t ch x).1.line = t.line.write t.w (dnz cfg.denormMode v)) ∧
    (tapeStep cfg sr t ch x).1.w = (t.w + 1) % t.line.len ∧
    (tapeStep cfg sr t ch x).1.rng = xorshift32 t.rng :=
  ⟨⟨_, rfl⟩, rfl, rfl⟩

end Sys2Proof.Machine
end

