-- ==== Sys2Proof/Laws/State.lean ====
section
/-!
SUPPORT. One lemma per field of `State` and per named update, so that no later proof unfolds a record update.
-/

namespace Sys2Proof.Machine

/-! ### `State.meterReadWith` -/

@[simp] theorem State.meterReadWith_shadow (s : State) (lag : Nat → Nat → Nat) (idx : BitVec 6) :
    (s.meterReadWith lag idx).shadow = s.shadow := rfl
@[simp] theorem State.meterReadWith_ofsL (s : State) (lag : Nat → Nat → Nat) (idx : BitVec 6) :
    (s.meterReadWith lag idx).ofsL = s.ofsL := rfl
@[simp] theorem State.meterReadWith_ofsR (s : State) (lag : Nat → Nat → Nat) (idx : BitVec 6) :
    (s.meterReadWith lag idx).ofsR = s.ofsR := rfl
@[simp] theorem State.meterReadWith_act (s : State) (lag : Nat → Nat → Nat) (idx : BitVec 6) :
    (s.meterReadWith lag idx).act = s.act := rfl
@[simp] theorem State.meterReadWith_sr (s : State) (lag : Nat → Nat → Nat) (idx : BitVec 6) :
    (s.meterReadWith lag idx).sr = s.sr := rfl
@[simp] theorem State.meterReadWith_configured (s : State) (lag : Nat → Nat → Nat) (idx : BitVec 6) :
    (s.meterReadWith lag idx).configured = s.configured := rfl
@[simp] theorem State.meterReadWith_errs (s : State) (lag : Nat → Nat → Nat) (idx : BitVec 6) :
    (s.meterReadWith lag idx).errs = s.errs := rfl
@[simp] theorem State.meterReadWith_errCmd (s : State) (lag : Nat → Nat → Nat) (idx : BitVec 6) :
    (s.meterReadWith lag idx).errCmd = s.errCmd := rfl
@[simp] theorem State.meterReadWith_chL (s : State) (lag : Nat → Nat → Nat) (idx : BitVec 6) :
    (s.meterReadWith lag idx).chL = s.chL := rfl
@[simp] theorem State.meterReadWith_chR (s : State) (lag : Nat → Nat → Nat) (idx : BitVec 6) :
    (s.meterReadWith lag idx).chR = s.chR := rfl
@[simp] theorem State.meterReadWith_port (s : State) (lag : Nat → Nat → Nat) (idx : BitVec 6) :
    (s.meterReadWith lag idx).port = s.port := rfl
@[simp] theorem State.meterReadWith_resp (s : State) (lag : Nat → Nat → Nat) (idx : BitVec 6) :
    (s.meterReadWith lag idx).resp = s.resp := rfl
@[simp] theorem State.meterReadWith_history (s : State) (lag : Nat → Nat → Nat) (idx : BitVec 6) :
    (s.meterReadWith lag idx).history = s.history := rfl
@[simp] theorem State.meterReadWith_seen (s : State) (lag : Nat → Nat → Nat) (idx : BitVec 6) :
    (s.meterReadWith lag idx).seen = s.seen.set idx.toNat (s.meterBoundary lag idx) := rfl
@[simp] theorem State.meterReadWith_meterReads (s : State) (lag : Nat → Nat → Nat) (idx : BitVec 6) :
    (s.meterReadWith lag idx).meterReads = s.meterReads.set idx.toNat (s.meterReads[idx.toNat] + 1) := rfl

/-! ### `State.respond` -/

@[simp] theorem State.respond_shadow (s : State) (r : Response) : (s.respond r).shadow = s.shadow := rfl
@[simp] theorem State.respond_ofsL (s : State) (r : Response) : (s.respond r).ofsL = s.ofsL := rfl
@[simp] theorem State.respond_ofsR (s : State) (r : Response) : (s.respond r).ofsR = s.ofsR := rfl
@[simp] theorem State.respond_act (s : State) (r : Response) : (s.respond r).act = s.act := rfl
@[simp] theorem State.respond_sr (s : State) (r : Response) : (s.respond r).sr = s.sr := rfl
@[simp] theorem State.respond_configured (s : State) (r : Response) : (s.respond r).configured = s.configured := rfl
@[simp] theorem State.respond_errs (s : State) (r : Response) : (s.respond r).errs = s.errs := rfl
@[simp] theorem State.respond_errCmd (s : State) (r : Response) : (s.respond r).errCmd = s.errCmd := rfl
@[simp] theorem State.respond_chL (s : State) (r : Response) : (s.respond r).chL = s.chL := rfl
@[simp] theorem State.respond_chR (s : State) (r : Response) : (s.respond r).chR = s.chR := rfl
@[simp] theorem State.respond_port (s : State) (r : Response) : (s.respond r).port = s.port := rfl
@[simp] theorem State.respond_resp (s : State) (r : Response) : (s.respond r).resp = some r := rfl
@[simp] theorem State.respond_meterResp (s : State) (r : Response) : (s.respond r).meterResp = s.meterResp := rfl
@[simp] theorem State.respond_history (s : State) (r : Response) : (s.respond r).history = s.history := rfl
@[simp] theorem State.respond_seen (s : State) (r : Response) : (s.respond r).seen = s.seen := rfl
@[simp] theorem State.respond_meterReads (s : State) (r : Response) : (s.respond r).meterReads = s.meterReads := rfl

/-! ### `State.ok` -/

@[simp] theorem State.ok_shadow (s : State) (rd : Word) : (s.ok rd).shadow = s.shadow := rfl
@[simp] theorem State.ok_ofsL (s : State) (rd : Word) : (s.ok rd).ofsL = s.ofsL := rfl
@[simp] theorem State.ok_ofsR (s : State) (rd : Word) : (s.ok rd).ofsR = s.ofsR := rfl
@[simp] theorem State.ok_act (s : State) (rd : Word) : (s.ok rd).act = s.act := rfl
@[simp] theorem State.ok_sr (s : State) (rd : Word) : (s.ok rd).sr = s.sr := rfl
@[simp] theorem State.ok_configured (s : State) (rd : Word) : (s.ok rd).configured = s.configured := rfl
@[simp] theorem State.ok_errs (s : State) (rd : Word) : (s.ok rd).errs = s.errs := rfl
@[simp] theorem State.ok_errCmd (s : State) (rd : Word) : (s.ok rd).errCmd = s.errCmd := rfl
@[simp] theorem State.ok_chL (s : State) (rd : Word) : (s.ok rd).chL = s.chL := rfl
@[simp] theorem State.ok_chR (s : State) (rd : Word) : (s.ok rd).chR = s.chR := rfl
@[simp] theorem State.ok_port (s : State) (rd : Word) : (s.ok rd).port = s.port := rfl
@[simp] theorem State.ok_resp (s : State) (rd : Word) : (s.ok rd).resp = some ⟨.ok, rd⟩ := rfl
@[simp] theorem State.ok_meterResp (s : State) (rd : Word) : (s.ok rd).meterResp = s.meterResp := rfl
@[simp] theorem State.ok_history (s : State) (rd : Word) : (s.ok rd).history = s.history := rfl
@[simp] theorem State.ok_seen (s : State) (rd : Word) : (s.ok rd).seen = s.seen := rfl
@[simp] theorem State.ok_meterReads (s : State) (rd : Word) : (s.ok rd).meterReads = s.meterReads := rfl

/-! ### `State.raise` -/

@[simp] theorem State.raise_shadow (s : State) (e : CmdError) (cw : CmdWord) : (s.raise e cw).shadow = s.shadow := rfl
@[simp] theorem State.raise_ofsL (s : State) (e : CmdError) (cw : CmdWord) : (s.raise e cw).ofsL = s.ofsL := rfl
@[simp] theorem State.raise_ofsR (s : State) (e : CmdError) (cw : CmdWord) : (s.raise e cw).ofsR = s.ofsR := rfl
@[simp] theorem State.raise_act (s : State) (e : CmdError) (cw : CmdWord) : (s.raise e cw).act = s.act := rfl
@[simp] theorem State.raise_sr (s : State) (e : CmdError) (cw : CmdWord) : (s.raise e cw).sr = s.sr := rfl
@[simp] theorem State.raise_configured (s : State) (e : CmdError) (cw : CmdWord) :
    (s.raise e cw).configured = s.configured := rfl
@[simp] theorem State.raise_errs (s : State) (e : CmdError) (cw : CmdWord) :
    (s.raise e cw).errs = setError s.errs e := rfl
@[simp] theorem State.raise_errCmd (s : State) (e : CmdError) (cw : CmdWord) :
    (s.raise e cw).errCmd = cw.setWidth 64 := rfl
@[simp] theorem State.raise_chL (s : State) (e : CmdError) (cw : CmdWord) : (s.raise e cw).chL = s.chL := rfl
@[simp] theorem State.raise_chR (s : State) (e : CmdError) (cw : CmdWord) : (s.raise e cw).chR = s.chR := rfl
@[simp] theorem State.raise_port (s : State) (e : CmdError) (cw : CmdWord) : (s.raise e cw).port = s.port := rfl
@[simp] theorem State.raise_resp (s : State) (e : CmdError) (cw : CmdWord) :
    (s.raise e cw).resp = some ⟨.err, 0⟩ := rfl
@[simp] theorem State.raise_meterResp (s : State) (e : CmdError) (cw : CmdWord) :
    (s.raise e cw).meterResp = s.meterResp := rfl
@[simp] theorem State.raise_history (s : State) (e : CmdError) (cw : CmdWord) :
    (s.raise e cw).history = s.history := rfl
@[simp] theorem State.raise_seen (s : State) (e : CmdError) (cw : CmdWord) : (s.raise e cw).seen = s.seen := rfl
@[simp] theorem State.raise_meterReads (s : State) (e : CmdError) (cw : CmdWord) :
    (s.raise e cw).meterReads = s.meterReads := rfl

/-! ### `State.setParam` -/

@[simp] theorem State.setParam_shadow (s : State) (r : PReg) (v : Word) :
    (s.setParam r v).shadow = s.shadow.set r v := rfl
@[simp] theorem State.setParam_ofsL (s : State) (r : PReg) (v : Word) : (s.setParam r v).ofsL = s.ofsL := rfl
@[simp] theorem State.setParam_ofsR (s : State) (r : PReg) (v : Word) : (s.setParam r v).ofsR = s.ofsR := rfl
@[simp] theorem State.setParam_act (s : State) (r : PReg) (v : Word) : (s.setParam r v).act = s.act := rfl
@[simp] theorem State.setParam_sr (s : State) (r : PReg) (v : Word) : (s.setParam r v).sr = s.sr := rfl
@[simp] theorem State.setParam_configured (s : State) (r : PReg) (v : Word) :
    (s.setParam r v).configured = s.configured := rfl
@[simp] theorem State.setParam_errs (s : State) (r : PReg) (v : Word) : (s.setParam r v).errs = s.errs := rfl
@[simp] theorem State.setParam_errCmd (s : State) (r : PReg) (v : Word) : (s.setParam r v).errCmd = s.errCmd := rfl
@[simp] theorem State.setParam_chL (s : State) (r : PReg) (v : Word) : (s.setParam r v).chL = s.chL := rfl
@[simp] theorem State.setParam_chR (s : State) (r : PReg) (v : Word) : (s.setParam r v).chR = s.chR := rfl
@[simp] theorem State.setParam_port (s : State) (r : PReg) (v : Word) : (s.setParam r v).port = s.port := rfl
@[simp] theorem State.setParam_resp (s : State) (r : PReg) (v : Word) : (s.setParam r v).resp = s.resp := rfl
@[simp] theorem State.setParam_meterResp (s : State) (r : PReg) (v : Word) :
    (s.setParam r v).meterResp = s.meterResp := rfl
@[simp] theorem State.setParam_history (s : State) (r : PReg) (v : Word) : (s.setParam r v).history = s.history := rfl
@[simp] theorem State.setParam_seen (s : State) (r : PReg) (v : Word) : (s.setParam r v).seen = s.seen := rfl
@[simp] theorem State.setParam_meterReads (s : State) (r : PReg) (v : Word) :
    (s.setParam r v).meterReads = s.meterReads := rfl

/-! ### `State.clearStatus` -/

@[simp] theorem State.clearStatus_shadow (s : State) (v : Word) : (s.clearStatus v).shadow = s.shadow := rfl
@[simp] theorem State.clearStatus_ofsL (s : State) (v : Word) : (s.clearStatus v).ofsL = s.ofsL := rfl
@[simp] theorem State.clearStatus_ofsR (s : State) (v : Word) : (s.clearStatus v).ofsR = s.ofsR := rfl
@[simp] theorem State.clearStatus_act (s : State) (v : Word) : (s.clearStatus v).act = s.act := rfl
@[simp] theorem State.clearStatus_sr (s : State) (v : Word) : (s.clearStatus v).sr = s.sr := rfl
@[simp] theorem State.clearStatus_configured (s : State) (v : Word) :
    (s.clearStatus v).configured = s.configured := rfl
@[simp] theorem State.clearStatus_errs (s : State) (v : Word) : (s.clearStatus v).errs = clearErrors s.errs v := rfl
@[simp] theorem State.clearStatus_errCmd (s : State) (v : Word) : (s.clearStatus v).errCmd = s.errCmd := rfl
@[simp] theorem State.clearStatus_chL (s : State) (v : Word) : (s.clearStatus v).chL = s.chL := rfl
@[simp] theorem State.clearStatus_chR (s : State) (v : Word) : (s.clearStatus v).chR = s.chR := rfl
@[simp] theorem State.clearStatus_port (s : State) (v : Word) : (s.clearStatus v).port = s.port := rfl
@[simp] theorem State.clearStatus_resp (s : State) (v : Word) : (s.clearStatus v).resp = s.resp := rfl
@[simp] theorem State.clearStatus_meterResp (s : State) (v : Word) : (s.clearStatus v).meterResp = s.meterResp := rfl
@[simp] theorem State.clearStatus_history (s : State) (v : Word) : (s.clearStatus v).history = s.history := rfl
@[simp] theorem State.clearStatus_seen (s : State) (v : Word) : (s.clearStatus v).seen = s.seen := rfl
@[simp] theorem State.clearStatus_meterReads (s : State) (v : Word) :
    (s.clearStatus v).meterReads = s.meterReads := rfl

/-! ### `State.resetChannels` -/

@[simp] theorem State.resetChannels_shadow (s : State) (cfg : Config.Params) :
    (s.resetChannels cfg).shadow = s.shadow := rfl
@[simp] theorem State.resetChannels_ofsL (s : State) (cfg : Config.Params) : (s.resetChannels cfg).ofsL = s.ofsL := rfl
@[simp] theorem State.resetChannels_ofsR (s : State) (cfg : Config.Params) : (s.resetChannels cfg).ofsR = s.ofsR := rfl
@[simp] theorem State.resetChannels_act (s : State) (cfg : Config.Params) : (s.resetChannels cfg).act = s.act := rfl
@[simp] theorem State.resetChannels_sr (s : State) (cfg : Config.Params) : (s.resetChannels cfg).sr = s.sr := rfl
@[simp] theorem State.resetChannels_configured (s : State) (cfg : Config.Params) :
    (s.resetChannels cfg).configured = s.configured := rfl
@[simp] theorem State.resetChannels_errs (s : State) (cfg : Config.Params) : (s.resetChannels cfg).errs = s.errs := rfl
@[simp] theorem State.resetChannels_errCmd (s : State) (cfg : Config.Params) :
    (s.resetChannels cfg).errCmd = s.errCmd := rfl
@[simp] theorem State.resetChannels_chL (s : State) (cfg : Config.Params) :
    (s.resetChannels cfg).chL = ChanState.reset cfg .L (tapeBuf cfg (real s.sr)) (targetMixes s.act) s.chL.epoch := rfl
@[simp] theorem State.resetChannels_chR (s : State) (cfg : Config.Params) :
    (s.resetChannels cfg).chR = ChanState.reset cfg .R (tapeBuf cfg (real s.sr)) (targetMixes s.act) s.chR.epoch := rfl
@[simp] theorem State.resetChannels_port (s : State) (cfg : Config.Params) : (s.resetChannels cfg).port = s.port := rfl
@[simp] theorem State.resetChannels_resp (s : State) (cfg : Config.Params) : (s.resetChannels cfg).resp = s.resp := rfl
@[simp] theorem State.resetChannels_meterResp (s : State) (cfg : Config.Params) :
    (s.resetChannels cfg).meterResp = s.meterResp := rfl
@[simp] theorem State.resetChannels_history (s : State) (cfg : Config.Params) :
    (s.resetChannels cfg).history = s.history := rfl
@[simp] theorem State.resetChannels_seen (s : State) (cfg : Config.Params) : (s.resetChannels cfg).seen = s.seen := rfl
@[simp] theorem State.resetChannels_meterReads (s : State) (cfg : Config.Params) :
    (s.resetChannels cfg).meterReads = s.meterReads := rfl

/-! ### `State.latch` -/

@[simp] theorem State.latch_shadow (s : State) : (s.latch).shadow = s.shadow := rfl
@[simp] theorem State.latch_ofsL (s : State) : (s.latch).ofsL = s.ofsL := rfl
@[simp] theorem State.latch_ofsR (s : State) : (s.latch).ofsR = s.ofsR := rfl
@[simp] theorem State.latch_act (s : State) : (s.latch).act = ⟨s.shadow, s.ofsL, s.ofsR⟩ := rfl
@[simp] theorem State.latch_sr (s : State) : (s.latch).sr = s.sr := rfl
@[simp] theorem State.latch_configured (s : State) : (s.latch).configured = s.configured := rfl
@[simp] theorem State.latch_errs (s : State) : (s.latch).errs = s.errs := rfl
@[simp] theorem State.latch_errCmd (s : State) : (s.latch).errCmd = s.errCmd := rfl
@[simp] theorem State.latch_chL (s : State) : (s.latch).chL = s.chL.clearPeaks := rfl
@[simp] theorem State.latch_chR (s : State) : (s.latch).chR = s.chR.clearPeaks := rfl
@[simp] theorem State.latch_port (s : State) : (s.latch).port = s.port := rfl
@[simp] theorem State.latch_resp (s : State) : (s.latch).resp = s.resp := rfl
@[simp] theorem State.latch_meterResp (s : State) : (s.latch).meterResp = s.meterResp := rfl
@[simp] theorem State.latch_history (s : State) : (s.latch).history = s.history := rfl
@[simp] theorem State.latch_seen (s : State) : (s.latch).seen = s.seen := rfl
@[simp] theorem State.latch_meterReads (s : State) : (s.latch).meterReads = s.meterReads := rfl

/-! ### `State.pushBoundary` -/

@[simp] theorem State.pushBoundary_shadow (s : State) : (s.pushBoundary).shadow = s.shadow := rfl
@[simp] theorem State.pushBoundary_ofsL (s : State) : (s.pushBoundary).ofsL = s.ofsL := rfl
@[simp] theorem State.pushBoundary_ofsR (s : State) : (s.pushBoundary).ofsR = s.ofsR := rfl
@[simp] theorem State.pushBoundary_act (s : State) : (s.pushBoundary).act = s.act := rfl
@[simp] theorem State.pushBoundary_sr (s : State) : (s.pushBoundary).sr = s.sr := rfl
@[simp] theorem State.pushBoundary_configured (s : State) : (s.pushBoundary).configured = s.configured := rfl
@[simp] theorem State.pushBoundary_errs (s : State) : (s.pushBoundary).errs = s.errs := rfl
@[simp] theorem State.pushBoundary_errCmd (s : State) : (s.pushBoundary).errCmd = s.errCmd := rfl
@[simp] theorem State.pushBoundary_chL (s : State) : (s.pushBoundary).chL = s.chL := rfl
@[simp] theorem State.pushBoundary_chR (s : State) : (s.pushBoundary).chR = s.chR := rfl
@[simp] theorem State.pushBoundary_port (s : State) : (s.pushBoundary).port = s.port := rfl
@[simp] theorem State.pushBoundary_resp (s : State) : (s.pushBoundary).resp = s.resp := rfl
@[simp] theorem State.pushBoundary_meterResp (s : State) : (s.pushBoundary).meterResp = s.meterResp := rfl
@[simp] theorem State.pushBoundary_history (s : State) : (s.pushBoundary).history = s.statBank :: s.history := rfl
@[simp] theorem State.pushBoundary_seen (s : State) : (s.pushBoundary).seen = s.seen := rfl
@[simp] theorem State.pushBoundary_meterReads (s : State) : (s.pushBoundary).meterReads = s.meterReads := rfl

/-! ### `State.withPort` -/

@[simp] theorem State.withPort_shadow (s : State) (rest : List Event) : (s.withPort rest).shadow = s.shadow := rfl
@[simp] theorem State.withPort_ofsL (s : State) (rest : List Event) : (s.withPort rest).ofsL = s.ofsL := rfl
@[simp] theorem State.withPort_ofsR (s : State) (rest : List Event) : (s.withPort rest).ofsR = s.ofsR := rfl
@[simp] theorem State.withPort_act (s : State) (rest : List Event) : (s.withPort rest).act = s.act := rfl
@[simp] theorem State.withPort_sr (s : State) (rest : List Event) : (s.withPort rest).sr = s.sr := rfl
@[simp] theorem State.withPort_configured (s : State) (rest : List Event) :
    (s.withPort rest).configured = s.configured := rfl
@[simp] theorem State.withPort_errs (s : State) (rest : List Event) : (s.withPort rest).errs = s.errs := rfl
@[simp] theorem State.withPort_errCmd (s : State) (rest : List Event) : (s.withPort rest).errCmd = s.errCmd := rfl
@[simp] theorem State.withPort_chL (s : State) (rest : List Event) : (s.withPort rest).chL = s.chL := rfl
@[simp] theorem State.withPort_chR (s : State) (rest : List Event) : (s.withPort rest).chR = s.chR := rfl
@[simp] theorem State.withPort_port (s : State) (rest : List Event) : (s.withPort rest).port = rest := rfl
@[simp] theorem State.withPort_resp (s : State) (rest : List Event) : (s.withPort rest).resp = s.resp := rfl
@[simp] theorem State.withPort_meterResp (s : State) (rest : List Event) :
    (s.withPort rest).meterResp = s.meterResp := rfl
@[simp] theorem State.withPort_history (s : State) (rest : List Event) : (s.withPort rest).history = s.history := rfl
@[simp] theorem State.withPort_seen (s : State) (rest : List Event) : (s.withPort rest).seen = s.seen := rfl
@[simp] theorem State.withPort_meterReads (s : State) (rest : List Event) :
    (s.withPort rest).meterReads = s.meterReads := rfl

/-! ### `State.accept` -/

@[simp] theorem State.accept_shadow (s : State) (rest : List Event) : (s.accept rest).shadow = s.shadow := rfl
@[simp] theorem State.accept_ofsL (s : State) (rest : List Event) : (s.accept rest).ofsL = s.ofsL := rfl
@[simp] theorem State.accept_ofsR (s : State) (rest : List Event) : (s.accept rest).ofsR = s.ofsR := rfl
@[simp] theorem State.accept_act (s : State) (rest : List Event) : (s.accept rest).act = s.act := rfl
@[simp] theorem State.accept_sr (s : State) (rest : List Event) : (s.accept rest).sr = s.sr := rfl
@[simp] theorem State.accept_configured (s : State) (rest : List Event) :
    (s.accept rest).configured = s.configured := rfl
@[simp] theorem State.accept_errs (s : State) (rest : List Event) : (s.accept rest).errs = s.errs := rfl
@[simp] theorem State.accept_errCmd (s : State) (rest : List Event) : (s.accept rest).errCmd = s.errCmd := rfl
@[simp] theorem State.accept_chL (s : State) (rest : List Event) : (s.accept rest).chL = s.chL := rfl
@[simp] theorem State.accept_chR (s : State) (rest : List Event) : (s.accept rest).chR = s.chR := rfl
@[simp] theorem State.accept_port (s : State) (rest : List Event) : (s.accept rest).port = rest := rfl
@[simp] theorem State.accept_resp (s : State) (rest : List Event) : (s.accept rest).resp = s.resp := rfl
@[simp] theorem State.accept_meterResp (s : State) (rest : List Event) : (s.accept rest).meterResp = s.meterResp := rfl
@[simp] theorem State.accept_history (s : State) (rest : List Event) :
    (s.accept rest).history = s.statBank :: s.history := rfl
@[simp] theorem State.accept_seen (s : State) (rest : List Event) : (s.accept rest).seen = s.seen := rfl
@[simp] theorem State.accept_meterReads (s : State) (rest : List Event) :
    (s.accept rest).meterReads = s.meterReads := rfl

/-! ### `State.meterRead` -/

@[simp] theorem State.meterRead_shadow (s : State) (idx : BitVec 6) : (s.meterRead idx).shadow = s.shadow := rfl
@[simp] theorem State.meterRead_ofsL (s : State) (idx : BitVec 6) : (s.meterRead idx).ofsL = s.ofsL := rfl
@[simp] theorem State.meterRead_ofsR (s : State) (idx : BitVec 6) : (s.meterRead idx).ofsR = s.ofsR := rfl
@[simp] theorem State.meterRead_act (s : State) (idx : BitVec 6) : (s.meterRead idx).act = s.act := rfl
@[simp] theorem State.meterRead_sr (s : State) (idx : BitVec 6) : (s.meterRead idx).sr = s.sr := rfl
@[simp] theorem State.meterRead_configured (s : State) (idx : BitVec 6) :
    (s.meterRead idx).configured = s.configured := rfl
@[simp] theorem State.meterRead_errs (s : State) (idx : BitVec 6) : (s.meterRead idx).errs = s.errs := rfl
@[simp] theorem State.meterRead_errCmd (s : State) (idx : BitVec 6) : (s.meterRead idx).errCmd = s.errCmd := rfl
@[simp] theorem State.meterRead_chL (s : State) (idx : BitVec 6) : (s.meterRead idx).chL = s.chL := rfl
@[simp] theorem State.meterRead_chR (s : State) (idx : BitVec 6) : (s.meterRead idx).chR = s.chR := rfl
@[simp] theorem State.meterRead_port (s : State) (idx : BitVec 6) : (s.meterRead idx).port = s.port := rfl
@[simp] theorem State.meterRead_resp (s : State) (idx : BitVec 6) : (s.meterRead idx).resp = s.resp := rfl
@[simp] theorem State.meterRead_history (s : State) (idx : BitVec 6) : (s.meterRead idx).history = s.history := rfl
@[simp] theorem State.meterRead_seen (s : State) (idx : BitVec 6) :
    (s.meterRead idx).seen = s.seen.set idx.toNat (s.meterBoundary Config.meterLag idx) := rfl
@[simp] theorem State.meterRead_meterReads (s : State) (idx : BitVec 6) :
    (s.meterRead idx).meterReads = s.meterReads.set idx.toNat (s.meterReads[idx.toNat] + 1) := rfl

/-! ### `State.setChan` -/

@[simp] theorem State.setChan_shadow (s : State) (c : Chan) (x : ChanState) : (s.setChan c x).shadow = s.shadow := by
  cases c <;> rfl
@[simp] theorem State.setChan_ofsL (s : State) (c : Chan) (x : ChanState) : (s.setChan c x).ofsL = s.ofsL := by
  cases c <;> rfl
@[simp] theorem State.setChan_ofsR (s : State) (c : Chan) (x : ChanState) : (s.setChan c x).ofsR = s.ofsR := by
  cases c <;> rfl
@[simp] theorem State.setChan_act (s : State) (c : Chan) (x : ChanState) : (s.setChan c x).act = s.act := by
  cases c <;> rfl
@[simp] theorem State.setChan_sr (s : State) (c : Chan) (x : ChanState) : (s.setChan c x).sr = s.sr := by
  cases c <;> rfl
@[simp] theorem State.setChan_configured (s : State) (c : Chan) (x : ChanState) : (s.setChan c x).configured = s.configured := by
  cases c <;> rfl
@[simp] theorem State.setChan_errs (s : State) (c : Chan) (x : ChanState) : (s.setChan c x).errs = s.errs := by
  cases c <;> rfl
@[simp] theorem State.setChan_errCmd (s : State) (c : Chan) (x : ChanState) : (s.setChan c x).errCmd = s.errCmd := by
  cases c <;> rfl
@[simp] theorem State.setChan_port (s : State) (c : Chan) (x : ChanState) : (s.setChan c x).port = s.port := by
  cases c <;> rfl
@[simp] theorem State.setChan_resp (s : State) (c : Chan) (x : ChanState) : (s.setChan c x).resp = s.resp := by
  cases c <;> rfl
@[simp] theorem State.setChan_meterResp (s : State) (c : Chan) (x : ChanState) : (s.setChan c x).meterResp = s.meterResp := by
  cases c <;> rfl
@[simp] theorem State.setChan_history (s : State) (c : Chan) (x : ChanState) : (s.setChan c x).history = s.history := by
  cases c <;> rfl
@[simp] theorem State.setChan_seen (s : State) (c : Chan) (x : ChanState) : (s.setChan c x).seen = s.seen := by
  cases c <;> rfl
@[simp] theorem State.setChan_meterReads (s : State) (c : Chan) (x : ChanState) : (s.setChan c x).meterReads = s.meterReads := by
  cases c <;> rfl
@[simp] theorem State.setChan_L_chL (s : State) (x : ChanState) : (s.setChan .L x).chL = x := rfl
@[simp] theorem State.setChan_L_chR (s : State) (x : ChanState) : (s.setChan .L x).chR = s.chR := rfl
@[simp] theorem State.setChan_R_chL (s : State) (x : ChanState) : (s.setChan .R x).chL = s.chL := rfl
@[simp] theorem State.setChan_R_chR (s : State) (x : ChanState) : (s.setChan .R x).chR = x := rfl
@[simp] theorem State.setChan_chan (s : State) (c : Chan) (x : ChanState) : (s.setChan c x).chan c = x := by
  cases c <;> rfl
theorem State.setChan_chan_of_ne (s : State) {c c' : Chan} (h : c' ≠ c) (x : ChanState) :
    (s.setChan c x).chan c' = s.chan c' := by
  cases c <;> cases c' <;> first | rfl | exact absurd rfl h
theorem State.setChan_setChan_of_ne (s : State) {c c' : Chan} (h : c' ≠ c) (x y : ChanState) :
    (s.setChan c x).setChan c' y = (s.setChan c' y).setChan c x := by
  cases c <;> cases c' <;> first | rfl | exact absurd rfl h
@[simp] theorem State.respond_chan (s : State) (r : Response) (c : Chan) : (s.respond r).chan c = s.chan c := by
  cases c <;> rfl
@[simp] theorem State.ok_chan (s : State) (rd : Word) (c : Chan) : (s.ok rd).chan c = s.chan c := by
  cases c <;> rfl
@[simp] theorem State.ok_setChan (s : State) (rd : Word) (c : Chan) (x : ChanState) :
    (s.ok rd).setChan c x = (s.setChan c x).ok rd := by
  cases c <;> rfl
@[simp] theorem State.ok_ok (s : State) (a b : Word) : (s.ok a).ok b = s.ok b := rfl

/-! ### `State.setOfs` -/

@[simp] theorem State.setOfs_shadow (s : State) (c : Chan) (r : OReg) (v : Word) : (s.setOfs c r v).shadow = s.shadow := by
  cases c <;> rfl
@[simp] theorem State.setOfs_act (s : State) (c : Chan) (r : OReg) (v : Word) : (s.setOfs c r v).act = s.act := by
  cases c <;> rfl
@[simp] theorem State.setOfs_sr (s : State) (c : Chan) (r : OReg) (v : Word) : (s.setOfs c r v).sr = s.sr := by
  cases c <;> rfl
@[simp] theorem State.setOfs_configured (s : State) (c : Chan) (r : OReg) (v : Word) : (s.setOfs c r v).configured = s.configured := by
  cases c <;> rfl
@[simp] theorem State.setOfs_errs (s : State) (c : Chan) (r : OReg) (v : Word) : (s.setOfs c r v).errs = s.errs := by
  cases c <;> rfl
@[simp] theorem State.setOfs_errCmd (s : State) (c : Chan) (r : OReg) (v : Word) : (s.setOfs c r v).errCmd = s.errCmd := by
  cases c <;> rfl
@[simp] theorem State.setOfs_chL (s : State) (c : Chan) (r : OReg) (v : Word) : (s.setOfs c r v).chL = s.chL := by
  cases c <;> rfl
@[simp] theorem State.setOfs_chR (s : State) (c : Chan) (r : OReg) (v : Word) : (s.setOfs c r v).chR = s.chR := by
  cases c <;> rfl
@[simp] theorem State.setOfs_port (s : State) (c : Chan) (r : OReg) (v : Word) : (s.setOfs c r v).port = s.port := by
  cases c <;> rfl
@[simp] theorem State.setOfs_resp (s : State) (c : Chan) (r : OReg) (v : Word) : (s.setOfs c r v).resp = s.resp := by
  cases c <;> rfl
@[simp] theorem State.setOfs_meterResp (s : State) (c : Chan) (r : OReg) (v : Word) : (s.setOfs c r v).meterResp = s.meterResp := by
  cases c <;> rfl
@[simp] theorem State.setOfs_history (s : State) (c : Chan) (r : OReg) (v : Word) : (s.setOfs c r v).history = s.history := by
  cases c <;> rfl
@[simp] theorem State.setOfs_seen (s : State) (c : Chan) (r : OReg) (v : Word) : (s.setOfs c r v).seen = s.seen := by
  cases c <;> rfl
@[simp] theorem State.setOfs_meterReads (s : State) (c : Chan) (r : OReg) (v : Word) : (s.setOfs c r v).meterReads = s.meterReads := by
  cases c <;> rfl
@[simp] theorem State.setOfs_ofs (s : State) (c : Chan) (r : OReg) (v : Word) :
    (s.setOfs c r v).ofs c = (s.ofs c).set r v := by
  cases c <;> rfl
theorem State.setOfs_ofs_of_ne (s : State) {c c' : Chan} (h : c' ≠ c) (r : OReg) (v : Word) :
    (s.setOfs c r v).ofs c' = s.ofs c' := by
  cases c <;> cases c' <;> first | rfl | exact absurd rfl h

/-! ### Reads that an update leaves alone -/

@[simp] theorem State.ok_statBank (s : State) (rd : Word) : (s.ok rd).statBank = s.statBank := rfl
@[simp] theorem State.respond_statBank (s : State) (r : Response) : (s.respond r).statBank = s.statBank := rfl
@[simp] theorem State.withPort_statBank (s : State) (rest : List Event) : (s.withPort rest).statBank = s.statBank := rfl
@[simp] theorem State.accept_statBank (s : State) (rest : List Event) : (s.accept rest).statBank = s.statBank := rfl
@[simp] theorem State.meterRead_statBank (s : State) (idx : BitVec 6) : (s.meterRead idx).statBank = s.statBank := rfl

@[simp] theorem State.ok_env (s : State) (rd : Word) (cfg : Config.Params) (c : Chan) :
    (s.ok rd).env cfg c = s.env cfg c := rfl
@[simp] theorem State.setChan_env (s : State) (c' : Chan) (x : ChanState) (cfg : Config.Params) (c : Chan) :
    (s.setChan c' x).env cfg c = s.env cfg c := by
  cases c' <;> rfl
@[simp] theorem State.accept_env (s : State) (rest : List Event) (cfg : Config.Params) (c : Chan) :
    (s.accept rest).env cfg c = s.env cfg c := rfl

/-! ### Channels -/

@[simp] theorem ChanState.clearPeaks_clearPeaks (x : ChanState) : x.clearPeaks.clearPeaks = x.clearPeaks := rfl
@[simp] theorem ChanState.clearPeaks_mix (x : ChanState) : x.clearPeaks.mix = x.mix := rfl
@[simp] theorem ChanState.clearPeaks_epoch (x : ChanState) : x.clearPeaks.epoch = x.epoch := rfl
@[simp] theorem ChanState.reset_mix (cfg : Config.Params) (c : Chan) (len : Nat) (mix : Mixes) (epoch : Nat) :
    (ChanState.reset cfg c len mix epoch).mix = mix := rfl
@[simp] theorem ChanState.reset_m (cfg : Config.Params) (c : Chan) (len : Nat) (mix : Mixes) (epoch : Nat) :
    (ChanState.reset cfg c len mix epoch).m = Meters.reset := rfl
@[simp] theorem ChanState.reset_epoch (cfg : Config.Params) (c : Chan) (len : Nat) (mix : Mixes) (epoch : Nat) :
    (ChanState.reset cfg c len mix epoch).epoch = epoch := rfl

end Sys2Proof.Machine
end

