-- ==== Sys2Proof/Laws/Registers.lean ====
section
/-!
SUPPORT. The register map and the banks: what one write changes, and what a read returns.
-/

namespace Sys2Proof.Machine

/-! ### One register of a bank -/

@[simp] theorem ParamBank.get_set_self (b : ParamBank) (r : PReg) (v : Word) : (b.set r v).get r = v := by
  cases r <;> rfl

theorem ParamBank.get_set_of_ne (b : ParamBank) {r r' : PReg} (h : r' ≠ r) (v : Word) :
    (b.set r v).get r' = b.get r' := by
  cases r <;> cases r' <;> first | rfl | exact absurd rfl h

@[simp] theorem ParamBank.set_get (b : ParamBank) (r : PReg) : b.set r (b.get r) = b := by
  cases r <;> rfl

@[simp] theorem ParamBank.set_set (b : ParamBank) (r : PReg) (v w : Word) : (b.set r v).set r w = b.set r w := by
  cases r <;> rfl

@[simp] theorem OfsBank.get_set_self (b : OfsBank) (r : OReg) (v : Word) : (b.set r v).get r = v := by
  cases r <;> rfl

theorem OfsBank.get_set_of_ne (b : OfsBank) {r r' : OReg} (h : r' ≠ r) (v : Word) :
    (b.set r v).get r' = b.get r' := by
  cases r <;> cases r' <;> first | rfl | exact absurd rfl h

@[simp] theorem OfsBank.set_set (b : OfsBank) (r : OReg) (v w : Word) : (b.set r v).set r w = b.set r w := by
  cases r <;> rfl

/-- Two banks that read alike are one bank. -/
theorem ParamBank.ext_get {a b : ParamBank} (h : ∀ r, a.get r = b.get r) : a = b := by
  cases a; cases b
  simp only [ParamBank.mk.injEq]
  exact ⟨h .piBypass, h .piAlgo, h .piDrive, h .flBypass, h .hpfFreq, h .hpfSlope, h .hpfQmode, h .lpfFreq,
    h .lpfSlope, h .lpfQmode, h .ccBypass, h .ccMode, h .ccThresh, h .ldBypass, h .ldRatio, h .ldThresh,
    h .eqBypass, h .eqBassGain, h .eqBassFreq, h .eqB1Gain, h .eqB1Fidx, h .eqB2Gain, h .eqB2Fidx, h .eqTrebGain,
    h .eqTrebFreq, h .scBypass, h .scAlgo, h .scIn, h .scMakeup, h .scMix, h .coBypass, h .coProfile,
    h .osBypass, h .osAlgo, h .osDrive, h .ovBypass, h .ovGain⟩

/-! ### The register map -/

@[simp] theorem PReg.ofIdx_idx (r : PReg) : PReg.ofIdx r.idx = some r := by
  cases r <;> decide

@[simp] theorem OReg.ofIdx_idx (r : OReg) : OReg.ofIdx r.idx = some r := by
  cases r <;> decide

@[simp] theorem SReg.ofIdx_idx (r : SReg) : SReg.ofIdx r.idx = some r := by
  rcases r with _ | _ | _ | _ | (_ | _) | (_ | _) | (_ | _) | (_ | _) | (_ | _) <;> decide

theorem PReg.idx_of_ofIdx {i : BitVec 6} {r : PReg} (h : PReg.ofIdx i = some r) : r.idx = i := by
  simpa using List.find?_some h

theorem OReg.idx_of_ofIdx {i : BitVec 6} {r : OReg} (h : OReg.ofIdx i = some r) : r.idx = i := by
  simpa using List.find?_some h

theorem SReg.idx_of_ofIdx {i : BitVec 6} {r : SReg} (h : SReg.ofIdx i = some r) : r.idx = i := by
  simpa using List.find?_some h

/-- Every register is at its address. -/
@[simp] theorem regName_bank_idx (n : RegName) : regName n.bank n.idx = some n := by
  cases n with
  | param r => simp [regName, RegName.bank, RegName.idx]
  | ofs c r => cases c <;> simp [regName, RegName.bank, RegName.idx]
  | stat r => simp [regName, RegName.bank, RegName.idx]

@[simp] theorem regName_param (r : PReg) : regName 0#2 r.idx = some (.param r) := regName_bank_idx (.param r)
@[simp] theorem regName_ofsL (r : OReg) : regName 1#2 r.idx = some (.ofs .L r) := regName_bank_idx (.ofs .L r)
@[simp] theorem regName_ofsR (r : OReg) : regName 2#2 r.idx = some (.ofs .R r) := regName_bank_idx (.ofs .R r)
@[simp] theorem regName_stat (r : SReg) : regName 3#2 r.idx = some (.stat r) := regName_bank_idx (.stat r)

/-- The register an address names is at that address. -/
theorem regName_eq_some {bank : BitVec 2} {idx : BitVec 6} {n : RegName} (h : regName bank idx = some n) :
    n.bank = bank ∧ n.idx = idx := by
  have hb : ∀ b : BitVec 2, b = 0 ∨ b = 1 ∨ b = 2 ∨ b = 3 := by decide
  unfold regName at h
  rcases hb bank with rfl | rfl | rfl | rfl <;> simp at h <;> obtain ⟨r, hr, rfl⟩ := h
  · exact ⟨rfl, PReg.idx_of_ofIdx hr⟩
  · exact ⟨rfl, OReg.idx_of_ofIdx hr⟩
  · exact ⟨rfl, OReg.idx_of_ofIdx hr⟩
  · exact ⟨rfl, SReg.idx_of_ofIdx hr⟩

/-! ### `RegWrite` and `RegRead` -/

@[simp] theorem State.setParam_regRead_self (s : State) (r : PReg) (v : Word) :
    (s.setParam r v).regRead (.param r) = v := by
  simp [State.regRead]

@[simp] theorem State.setOfs_regRead_self (s : State) (c : Chan) (r : OReg) (v : Word) :
    (s.setOfs c r v).regRead (.ofs c r) = v := by
  simp [State.regRead]

/-- A bank-3 register but STATUS refuses every write (R53). -/
theorem State.regWrite_stat_of_ne (s : State) {r : SReg} (h : r ≠ .status) (d : Word) :
    s.regWrite (.stat r) d = .error .badReg := by
  cases r <;> first | rfl | exact absurd rfl h

/-- All that `RegWrite` can answer: an accepted parameter, an accepted offset, a STATUS write, or an error. -/
theorem State.regWrite_cases (s : State) (n : RegName) (d : Word) :
    (∃ r, n = .param r ∧ r.kind.accepts d = true ∧ s.regWrite n d = .ok (s.setParam r d)) ∨
    (∃ c r, n = .ofs c r ∧ Kind.offset.accepts d = true ∧ s.regWrite n d = .ok (s.setOfs c r d)) ∨
    (n = .stat .status ∧ s.regWrite n d = .ok (s.clearStatus d)) ∨
    ((∃ r, n = .param r ∧ r.kind.accepts d = false) ∧ s.regWrite n d = .error .badVal) ∨
    ((∃ c r, n = .ofs c r ∧ Kind.offset.accepts d = false) ∧ s.regWrite n d = .error .badVal) ∨
    ((∃ r, n = .stat r ∧ r ≠ .status) ∧ s.regWrite n d = .error .badReg) := by
  cases n with
  | param r =>
    cases h : r.kind.accepts d
    · exact .inr (.inr (.inr (.inl ⟨⟨r, rfl, h⟩, by simp [State.regWrite, h]⟩)))
    · exact .inl ⟨r, rfl, h, by simp [State.regWrite, h]⟩
  | ofs c r =>
    rcases h : Kind.accepts .offset d with _ | _
    · exact .inr (.inr (.inr (.inr (.inl ⟨⟨c, r, rfl, rfl⟩, by simp [State.regWrite, h]⟩))))
    · exact .inr (.inl ⟨c, r, rfl, rfl, by simp [State.regWrite, h]⟩)
  | stat r =>
    by_cases hr : r = .status
    · exact .inr (.inr (.inl ⟨by rw [hr], by rw [hr]; rfl⟩))
    · exact .inr (.inr (.inr (.inr (.inr ⟨⟨r, rfl, hr⟩, s.regWrite_stat_of_ne hr d⟩))))

end Sys2Proof.Machine
end

