-- ==== Sys2Proof/Laws/Commands.lean ====
section
/-!
SUPPORT. What each command's meaning can answer, said once: the provers cite these and unfold no meaning.
-/

namespace Sys2Proof.Machine

open Config

/-- SETSR rejects (R703). -/
theorem setsrWith_of_rejected (cfg : Params) {d : Word} (s : State) (h : rateAccepted (real d) = false) :
    setsrWith cfg d s = s.raise .srRej (encodeWord (.setsr d)) := by
  simp [setsrWith, h]

/-- SETSR accepts a new rate (R742). -/
theorem setsrWith_of_changed (cfg : Params) {d : Word} (s : State) (h : rateAccepted (real d) = true)
    (hc : rateChanged s (real d) = true) :
    setsrWith cfg d s = (({ s with sr := d, configured := true } : State).resetChannels cfg).ok 0 := by
  simp [setsrWith, h, hc]

/-- SETSR accepts the rate in force (R205). -/
theorem setsrWith_of_same (cfg : Params) {d : Word} (s : State) (h : rateAccepted (real d) = true)
    (hc : rateChanged s (real d) = false) :
    setsrWith cfg d s = ({ s with sr := d, configured := true } : State).ok 0 := by
  simp [setsrWith, h, hc]

/-- SMP before configuration (R704). -/
theorem smpWith_of_notCfg (cfg : Params) {ch : BitVec 8} {c : Chan} (d : Word) (s : State)
    (hc : Chan.ofCh ch = some c) (h : s.configured = false) :
    smpWith cfg ch d s = s.raise .notCfg (encodeWord (.smp ch d)) := by
  simp [smpWith, hc, h]

/-- SMP once configured (R209). -/
theorem smpWith_of_configured (cfg : Params) {ch : BitVec 8} {c : Chan} (d : Word) (s : State)
    (hc : Chan.ofCh ch = some c) (h : s.configured = true) :
    smpWith cfg ch d s = sampleWith cfg c (real d) s := by
  simp [smpWith, hc, h]

/-- SMP with a CH field that is no channel (R144). -/
theorem smpWith_of_noChan (cfg : Params) {ch : BitVec 8} (d : Word) (s : State) (hc : Chan.ofCh ch = none) :
    smpWith cfg ch d s = s.raise .badCmd (encodeWord (.smp ch d)) := by
  simp [smpWith, hc]

/-- What WRREG can answer at an address that names a register: the state after an accepted write, or the error. -/
theorem execWrreg_of_exists {bank : BitVec 2} {idx : BitVec 6} {n : RegName} (d : Word) (s : State)
    (h : regName bank idx = some n) :
    (∃ t, s.regWrite n d = .ok t ∧ execWrreg bank idx d s = .next (t.ok 0)) ∨
    (∃ e, s.regWrite n d = .error e ∧
      execWrreg bank idx d s = .next (s.raise e (encodeWord (.wrreg bank idx d)))) := by
  cases hw : s.regWrite n d with
  | ok t => exact .inl ⟨t, rfl, by simp [execWrreg, h, hw]⟩
  | error e => exact .inr ⟨e, rfl, by simp [execWrreg, h, hw]⟩

/-- WRREG of a reserved address (R701). -/
theorem execWrreg_of_reserved {bank : BitVec 2} {idx : BitVec 6} (d : Word) (s : State)
    (h : regName bank idx = none) :
    execWrreg bank idx d s = .next (s.raise .badReg (encodeWord (.wrreg bank idx d))) := by
  simp [execWrreg, h]

/-- RDREG of an address that names a register (R203). -/
theorem execRdreg_of_exists {bank : BitVec 2} {idx : BitVec 6} {n : RegName} (s : State)
    (h : regName bank idx = some n) : execRdreg bank idx s = .next (s.ok (s.regRead n)) := by
  simp [execRdreg, h]

/-- RDREG of a reserved address (R701). -/
theorem execRdreg_of_reserved {bank : BitVec 2} {idx : BitVec 6} (s : State) (h : regName bank idx = none) :
    execRdreg bank idx s = .next (s.raise .badReg (encodeWord (.rdreg bank idx))) := by
  simp [execRdreg, h]

/-- A CH field names a channel exactly when it is 0 or 1 (R144). -/
theorem Chan.ofCh_eq (ch : BitVec 8) : Chan.ofCh ch = if ch = 0 then some .L else if ch = 1 then some .R else none :=
  rfl

/-- The state of a configured SMP's channel and its response; everything else is kept. -/
theorem sampleWith_eq (cfg : Params) (c : Chan) (x : F64) (s : State) :
    sampleWith cfg c x s =
      (s.setChan c { (chain (s.env cfg c) (s.chan c) x).1 with epoch := (s.chan c).epoch + 1 }).ok
        (showReal c ((s.chan c).epoch + 1) slotResponse (chain (s.env cfg c) (s.chan c) x).2) :=
  rfl

end Sys2Proof.Machine
end

