-- ==== Sys2Proof/Laws/Encoding.lean ====
section
/-!
SUPPORT. The fields of a command word: packing and reading them are inverse, and where the adapter's bytes lie.
-/

namespace Sys2Proof

/-- The fields of a packed word. -/
theorem fields_packWord (o : BitVec 8) (b : BitVec 2) (i : BitVec 6) (c : BitVec 8) :
    fieldOpc (packWord o b i c) = o ∧ fieldBank (packWord o b i c) = b ∧ fieldIdx (packWord o b i c) = i ∧
    fieldCh (packWord o b i c) = c ∧ fieldRsv (packWord o b i c) = 0 := by
  simp only [fieldOpc, fieldBank, fieldIdx, fieldCh, fieldRsv, packWord]
  refine ⟨?_, ?_, ?_, ?_, ?_⟩ <;>
  · apply BitVec.eq_of_getLsbD_eq
    intro k hk
    simp only [BitVec.getLsbD_extractLsb', BitVec.getLsbD_append]
    interval_cases k <;> simp

/-- A word with RSV zero is its packed fields. -/
theorem packWord_fields {cw : CmdWord} (h : fieldRsv cw = 0) :
    packWord (fieldOpc cw) (fieldBank cw) (fieldIdx cw) (fieldCh cw) = cw := by
  have h0 : (0#8) = fieldRsv cw := h.symm
  simp only [fieldOpc, fieldBank, fieldIdx, fieldCh, packWord]
  rw [h0]
  simp only [fieldRsv]
  apply BitVec.eq_of_getLsbD_eq
  intro k hk
  simp only [BitVec.getLsbD_extractLsb', BitVec.getLsbD_append]
  interval_cases k <;> simp

/-- Every opcode's fields are read as its encoder packed them. -/
theorem fields_encodeWord (i : Instr) : fieldRsv (encodeWord i) = 0 := by
  cases i <;> exact (fields_packWord _ _ _ _).2.2.2.2

theorem bytesLE_length (n x : Nat) : (bytesLE n x).length = n := by
  induction n generalizing x with
  | zero => rfl
  | succ n ih => simp [bytesLE, ih]

/-- Bytes the lowest first, read back. -/
theorem ofBytesLE_bytesLE (n x : Nat) : ofBytesLE (bytesLE n x) = x % 256 ^ n := by
  induction n generalizing x with
  | zero => simp [bytesLE, ofBytesLE, Nat.mod_one]
  | succ n ih =>
    simp only [bytesLE, ofBytesLE, ih, BitVec.toNat_ofNat]
    rw [show (2 : Nat) ^ 8 = 256 from rfl, pow_succ', Nat.mod_mul]

/-- A command that crosses an adapter byte by byte decodes as the words do (R103). -/
theorem decodeBytes_words (cw : CmdWord) (d : Word) :
    decodeBytes (cmdWordBytes cw) (dataWordBytes d) = some (decode cw d) := by
  have h1 : cw.toNat % 256 ^ 4 = cw.toNat := Nat.mod_eq_of_lt (by simpa using cw.isLt)
  have h2 : d.toNat % 256 ^ 8 = d.toNat := Nat.mod_eq_of_lt (by simpa using d.isLt)
  simp only [decodeBytes, cmdWordBytes, dataWordBytes, bytesLE_length, ofBytesLE_bytesLE, h1, h2, and_self, if_true,
    BitVec.ofNat_toNat, BitVec.setWidth_eq]

end Sys2Proof
end

