-- ==== Sys2Proof/Laws/Meter.lean ====
section
/-!
SUPPORT. Meter-port reads (spec/20_memory.md R108, R109): which boundary a read returns, and what a sequence of reads
leaves alone.
-/

namespace Sys2Proof.Machine

/-! ### One read -/

/-- A read returns no boundary before the one the last read of the index returned (R108). -/
theorem State.seen_le_meterBoundary (s : State) (lag : Nat → Nat → Nat) (idx : BitVec 6) :
    s.seen[idx.toNat] ≤ s.meterBoundary lag idx :=
  Nat.le_add_right _ _

/-- A read returns no boundary after the present one (R108). -/
theorem State.meterBoundary_le {s : State} (h : s.MeterSound) (lag : Nat → Nat → Nat) (idx : BitVec 6) :
    s.meterBoundary lag idx ≤ s.history.length := by
  have h₁ := h idx
  have h₂ := Nat.mod_lt (lag idx.toNat s.meterReads[idx.toNat])
    (Nat.zero_lt_succ (s.history.length - s.seen[idx.toNat]))
  simp only [State.meterBoundary, Nat.succ_eq_add_one] at h₂ ⊢
  omega

/-- The present boundary is bank 3 as it reads now. -/
theorem State.boundary_length (s : State) : s.boundary s.history.length = s.statBank := by
  simp [State.boundary]

@[simp] theorem State.meterReadWith_statBank (s : State) (lag : Nat → Nat → Nat) (idx : BitVec 6) :
    (s.meterReadWith lag idx).statBank = s.statBank := rfl

@[simp] theorem State.meterReadWith_boundary (s : State) (lag : Nat → Nat → Nat) (idx : BitVec 6) (k : Nat) :
    (s.meterReadWith lag idx).boundary k = s.boundary k := rfl

theorem State.meterReadWith_meterResp {s : State} {idx : BitVec 6} {r : SReg} (h : SReg.ofIdx idx = some r)
    (lag : Nat → Nat → Nat) :
    (s.meterReadWith lag idx).meterResp = some ((s.boundary (s.meterBoundary lag idx)).get r) := by
  simp [State.meterReadWith, h]

/-! ### The index that is read, and the others -/

theorem State.meterReadWith_seen_self (s : State) (lag : Nat → Nat → Nat) (idx : BitVec 6) :
    (s.meterReadWith lag idx).seen[idx.toNat] = s.meterBoundary lag idx := by
  simp

theorem State.meterReadWith_seen_of_ne (s : State) (lag : Nat → Nat → Nat) {idx j : BitVec 6} (h : j ≠ idx) :
    (s.meterReadWith lag idx).seen[j.toNat] = s.seen[j.toNat] := by
  have : idx.toNat ≠ j.toNat := fun e => h (BitVec.eq_of_toNat_eq e.symm)
  simp [this]

theorem State.meterReadWith_meterReads_self (s : State) (lag : Nat → Nat → Nat) (idx : BitVec 6) :
    (s.meterReadWith lag idx).meterReads[idx.toNat] = s.meterReads[idx.toNat] + 1 := by
  simp

theorem State.meterReadWith_meterReads_of_ne (s : State) (lag : Nat → Nat → Nat) {idx j : BitVec 6} (h : j ≠ idx) :
    (s.meterReadWith lag idx).meterReads[j.toNat] = s.meterReads[j.toNat] := by
  have : idx.toNat ≠ j.toNat := fun e => h (BitVec.eq_of_toNat_eq e.symm)
  simp [this]

/-- A read keeps the meter port sound. -/
theorem State.MeterSound.meterReadWith {s : State} (h : s.MeterSound) (lag : Nat → Nat → Nat) (idx : BitVec 6) :
    (s.meterReadWith lag idx).MeterSound := by
  intro j
  by_cases e : j = idx
  · subst e
    rw [State.meterReadWith_seen_self]
    exact State.meterBoundary_le h lag j
  · rw [State.meterReadWith_seen_of_ne s lag e]
    exact h j

/-! ### Reads one after the other -/

@[simp] theorem State.readMeters_nil (s : State) (lag : Nat → Nat → Nat) : s.readMeters lag [] = s := rfl

@[simp] theorem State.readMeters_cons (s : State) (lag : Nat → Nat → Nat) (idx : BitVec 6) (rest : List (BitVec 6)) :
    s.readMeters lag (idx :: rest) = (s.meterReadWith lag idx).readMeters lag rest := rfl

@[simp] theorem State.readMeters_statBank (s : State) (lag : Nat → Nat → Nat) (l : List (BitVec 6)) :
    (s.readMeters lag l).statBank = s.statBank := by
  induction l generalizing s with
  | nil => rfl
  | cons i l ih => simp [ih]

@[simp] theorem State.readMeters_history (s : State) (lag : Nat → Nat → Nat) (l : List (BitVec 6)) :
    (s.readMeters lag l).history = s.history := by
  induction l generalizing s with
  | nil => rfl
  | cons i l ih => simp [ih]

theorem State.MeterSound.readMeters {s : State} (h : s.MeterSound) (lag : Nat → Nat → Nat) (l : List (BitVec 6)) :
    (s.readMeters lag l).MeterSound := by
  induction l generalizing s with
  | nil => exact h
  | cons i l ih => exact ih (h.meterReadWith lag i)

/-- What the later reads of an index depend on: of other indices' reads, nothing. -/
theorem State.readMeters_meterReads (s : State) (lag : Nat → Nat → Nat) (idx : BitVec 6) (l : List (BitVec 6)) :
    (s.readMeters lag l).meterReads[idx.toNat] = s.meterReads[idx.toNat] + l.count idx := by
  induction l generalizing s with
  | nil => rfl
  | cons i l ih =>
    by_cases e : i = idx
    · subst e
      rw [State.readMeters_cons, ih, State.meterReadWith_meterReads_self, List.count_cons_self]
      omega
    · rw [State.readMeters_cons, ih, State.meterReadWith_meterReads_of_ne s lag (Ne.symm e),
        List.count_cons_of_ne e]

end Sys2Proof.Machine
end

