-- ==== Sys2Proof/Laws/PerInstr.lean ====
section
/-!
SUPPORT. Statements for all instructions, one lemma per constructor.

`EncodedRow`: the word a well-formed instruction is encoded to is the word of exactly one row of the opcode map, its
own (spec/30_encoding.md R143).
-/

namespace Sys2Proof.Laws.EncodedRow

-- One lemma after the other: each is a kernel evaluation, and many at once take a thread each.
set_option Elab.async false

/-- The rows that the encoded word matches are the one with the instruction's mnemonic. -/
def Statement (i : Instr) : Prop :=
  i.WellFormed → (opcodeTable.filter (·.hits (encodeWord i))).map (·.mnemonic) = [i.mnemonic]

theorem nop : Statement .nop := fun _ => by decide +kernel

theorem wrreg (bank : BitVec 2) (idx : BitVec 6) (d : Word) : Statement (.wrreg bank idx d) := fun _ =>
  (by decide +kernel : ∀ (b : BitVec 2) (i : BitVec 6),
    (opcodeTable.filter (·.hits (packWord 0x01 b i 0))).map (·.mnemonic) = ["WRREG"]) bank idx

theorem rdreg (bank : BitVec 2) (idx : BitVec 6) : Statement (.rdreg bank idx) := fun _ =>
  (by decide +kernel : ∀ (b : BitVec 2) (i : BitVec 6),
    (opcodeTable.filter (·.hits (packWord 0x02 b i 0))).map (·.mnemonic) = ["RDREG"]) bank idx

theorem setsr (d : Word) : Statement (.setsr d) := fun _ =>
  (by decide +kernel : (opcodeTable.filter (·.hits (packWord 0x03 0 0 0))).map (·.mnemonic) = ["SETSR"])

theorem reset : Statement .reset := fun _ => by decide +kernel

theorem block : Statement .block := fun _ => by decide +kernel

theorem smp (ch : BitVec 8) (d : Word) : Statement (.smp ch d) := fun h =>
  (by decide +kernel : ∀ c : BitVec 8, decide (c.toNat < 2) = true →
    (opcodeTable.filter (·.hits (packWord 0x06 0 0 c))).map (·.mnemonic) = ["SMP"]) ch h

end Sys2Proof.Laws.EncodedRow
end

