-- ==== Sys2Proof/Laws/Real.lean ====
section
/-!
SUPPORT. The block's reals: exact results are not rounded, patterns and reals correspond, and the comparisons and
selections of R17.
-/

namespace Sys2Proof
namespace F64

/-! ### An exact result is not rounded -/

theorem units_lt (f : BitVec 52) : f.toNat < 2 ^ 52 := f.isLt

theorem nearestEven_mul (n : Nat) {d : Nat} (hd : 0 < d) : nearestEven (n * d) d = n := by
  simp only [nearestEven, Nat.mul_mod_left, Nat.mul_zero, Nat.mul_div_cancel n hd]
  rw [if_neg]
  rintro (h | ⟨h, -⟩) <;> omega

theorem ofMag_fields (s : Bool) (e : Fin 2047) (f : BitVec 52) : ofMag s (e.val * 2 ^ 52 + f.toNat) = .fin s e f := by
  have hf := units_lt f
  have hd : (e.val * 2 ^ 52 + f.toNat) / 2 ^ 52 = e.val := by omega
  have hm : BitVec.ofNat 52 (e.val * 2 ^ 52 + f.toNat) = f := by
    apply BitVec.eq_of_toNat_eq
    simp only [BitVec.toNat_ofNat]
    omega
  have hlt : (e.val * 2 ^ 52 + f.toNat) / 2 ^ 52 < 2047 := by rw [hd]; exact e.isLt
  unfold ofMag
  rw [dif_pos hlt, hm]
  congr 1
  exact Fin.ext hd

theorem excess_units (e : Fin 2047) (f : BitVec 52) {q : Nat} (hq : 0 < q) :
    excess (units e f * q) q = e.val - 1 := by
  have hf := units_lt f
  unfold excess
  rw [Nat.mul_div_cancel _ hq]
  by_cases h0 : e.val = 0
  · simp only [units, h0, if_true]
    rw [if_pos (by omega)]
  · simp only [units, h0, if_false]
    by_cases h1 : e.val = 1
    · simp only [h1]; rw [if_pos (by norm_num; omega)]
    · have hpos : 0 < 2 ^ (e.val - 1) := Nat.two_pow_pos _
      have h2 : 2 ≤ 2 ^ (e.val - 1) := by
        calc 2 = 2 ^ 1 := rfl
          _ ≤ 2 ^ (e.val - 1) := Nat.pow_le_pow_right (by norm_num) (by omega)
      have hge : ¬ (2 ^ 52 + f.toNat) * 2 ^ (e.val - 1) < 2 ^ 53 := by
        have : (2 ^ 52 + f.toNat) * 2 ≤ (2 ^ 52 + f.toNat) * 2 ^ (e.val - 1) := Nat.mul_le_mul_left _ h2
        omega
      rw [if_neg hge]
      have hlog : Nat.log2 ((2 ^ 52 + f.toNat) * 2 ^ (e.val - 1)) = 52 + (e.val - 1) := by
        rw [Nat.log2_eq_iff (by positivity)]
        constructor
        · rw [pow_add]; exact Nat.mul_le_mul_right _ (by omega)
        · have : 2 ^ (52 + (e.val - 1) + 1) = 2 ^ 53 * 2 ^ (e.val - 1) := by rw [← pow_add]; congr 1; omega
          rw [this]; exact Nat.mul_lt_mul_of_pos_right (by omega) hpos
      rw [hlog]; omega

/-- A finite datum, however it is scaled, is rounded to itself. -/
theorem round_units (s : Bool) (e : Fin 2047) (f : BitVec 52) {q : Nat} (hq : 0 < q) :
    round s (units e f * q) q = .fin s e f := by
  have hf := units_lt f
  unfold round
  rw [excess_units e f hq]
  by_cases h0 : e.val = 0
  · have hu : units e f = f.toNat := by simp [units, h0]
    have hn : nearestEven (units e f * q) (q * 2 ^ (e.val - 1)) = f.toNat := by
      rw [h0, hu]; simpa using nearestEven_mul f.toNat hq
    rw [hn, ← ofMag_fields s e f, h0]
  · have hu : units e f * q = (2 ^ 52 + f.toNat) * (q * 2 ^ (e.val - 1)) := by
      simp only [units, h0, if_false]; ring
    rw [hu, nearestEven_mul _ (Nat.mul_pos hq (Nat.two_pow_pos _)), ← ofMag_fields s e f]
    refine congrArg _ ?_
    obtain ⟨k, hk⟩ : ∃ k, e.val = k + 1 := ⟨e.val - 1, by omega⟩
    simp only [hk, Nat.add_sub_cancel]
    omega

theorem round_zero (s : Bool) {q : Nat} (hq : 0 < q) : round s 0 q = zero s := by
  have h := round_units s 0 0 hq
  simpa [units, zero] using h

theorem units_eq_zero {e : Fin 2047} {f : BitVec 52} : units e f = 0 ↔ e.val = 0 ∧ f = 0 := by
  unfold units
  by_cases h0 : e.val = 0
  · simp only [h0, if_true, true_and]
    exact ⟨fun h => BitVec.eq_of_toNat_eq (by simpa using h), fun h => by simp [h]⟩
  · simp [h0]

/-! ### One -/

/-- The exponent field of 1.0. -/
theorem ofNat_one : F64.ofNat 1 = .fin false 1023 0 := by decide +kernel

theorem units_one : units 1023 0 = 2 ^ 1074 := by decide +kernel

theorem units_one_pos : 0 < units 1023 0 := by decide +kernel

/-- `x * 1.0` is `x`. -/
@[simp] theorem mul_one (x : F64) : x.mul (F64.ofNat 1) = x := by
  rw [ofNat_one]
  cases x with
  | nan => rfl
  | inf s => simp only [mul, units_one_pos.ne', if_false, Bool.xor_false]
  | fin s e f =>
    simp only [mul, Bool.xor_false]
    rw [units_one]
    exact round_units s e f (by positivity)

/-- `x / 1.0` is `x`. -/
@[simp] theorem div_one (x : F64) : x.div (F64.ofNat 1) = x := by
  rw [ofNat_one]
  cases x with
  | nan => rfl
  | inf s => simp [div]
  | fin s e f =>
    simp only [div, units_one_pos.ne', if_false, Bool.xor_false]
    rw [units_one]
    exact round_units s e f (by positivity)

/-! ### Zeros -/

/-- A finite real times a zero is a zero. -/
theorem mul_zero_fin (s t : Bool) (e : Fin 2047) (f : BitVec 52) :
    (F64.fin s e f).mul (zero t) = zero (s ^^ t) := by
  simp only [mul, zero]
  have : units 0 0 = 0 := by decide
  rw [this, Nat.mul_zero]
  exact round_zero _ (by positivity)

/-- Adding a zero to a finite real that is not a zero leaves it alone. -/
theorem zero_add_fin (s t : Bool) {e : Fin 2047} {f : BitVec 52} (h : units e f ≠ 0) :
    (zero t).add (.fin s e f) = .fin s e f := by
  have h0 : units 0 0 = 0 := by decide
  have hr := round_units s e f Nat.one_pos
  rw [Nat.mul_one] at hr
  simp only [add, zero, addUnits, h0]
  cases t <;> cases s <;> simp [signed, h] <;> first | exact hr | (rw [← hr]; congr 1; simp; omega)

/-- Adding a zero on the right. -/
theorem add_zero_fin (s t : Bool) {e : Fin 2047} {f : BitVec 52} (h : units e f ≠ 0) :
    (F64.fin s e f).add (zero t) = .fin s e f := by
  have h0 : units 0 0 = 0 := by decide
  have hr := round_units s e f Nat.one_pos
  rw [Nat.mul_one] at hr
  simp only [add, zero, addUnits, h0]
  cases t <;> cases s <;> simp [signed, h] <;> first | exact hr | (rw [← hr]; congr 1; simp; omega)

theorem zero_add_zero (s t : Bool) : (zero s).add (zero t) = zero (s && t) := by
  cases s <;> cases t <;> decide

@[simp] theorem neg_neg (x : F64) : x.neg.neg = x := by
  cases x <;> simp [neg]

end F64

/-! ### Patterns and reals (R15) -/

theorem isNaN_nanPattern (free : Word) : real (nanPattern free) = .nan := by
  unfold nanPattern isNaNBits
  split
  · next h => revert h; cases real free <;> simp [F64.isNaN]
  · decide

theorem real_fields (s : Bool) (e : BitVec 11) (f : BitVec 52) :
    real (BitVec.ofBool s ++ (e ++ f)) =
      if h : e.toNat < 2047 then .fin s ⟨e.toNat, h⟩ f else if f = 0 then .inf s else .nan := by
  have h1 : (BitVec.ofBool s ++ (e ++ f)).extractLsb' 52 11 = e := by
    apply BitVec.eq_of_getLsbD_eq
    intro i hi
    simp only [BitVec.getLsbD_extractLsb', BitVec.getLsbD_append]
    have : 52 + i < 11 + 52 := by omega
    have h2 : ¬ 52 + i < 52 := by omega
    simp [hi, this, h2]
  have h2 : (BitVec.ofBool s ++ (e ++ f)).extractLsb' 0 52 = f := by
    apply BitVec.eq_of_getLsbD_eq
    intro i hi
    simp only [BitVec.getLsbD_extractLsb', BitVec.getLsbD_append]
    have : 0 + i < 11 + 52 := by omega
    simp [hi]; omega
  have h3 : (BitVec.ofBool s ++ (e ++ f)).msb = s := by
    rw [BitVec.msb_append]; simp
  unfold real
  rw [h1, h2, h3]

/-- Reading back the pattern of a real gives the real, a NaN's pattern included. -/
@[simp] theorem real_bits64 (free : Word) (v : F64) : real (bits64 free v) = v := by
  cases v with
  | nan => exact isNaN_nanPattern free
  | inf s =>
    unfold bits64
    rw [real_fields]; simp
  | fin s e f =>
    have he : (BitVec.ofNat 11 e.val).toNat = e.val := by
      have := e.isLt
      simp only [BitVec.toNat_ofNat]; omega
    unfold bits64
    rw [real_fields, dif_pos (by rw [he]; exact e.isLt)]
    congr 1
    exact Fin.ext he

/-- A pattern is its fields. -/
theorem word_fields (u : Word) :
    u = BitVec.ofBool u.msb ++ (u.extractLsb' 52 11 ++ u.extractLsb' 0 52) := by
  apply BitVec.eq_of_getLsbD_eq
  intro i hi
  simp only [BitVec.getLsbD_append, BitVec.getLsbD_extractLsb']
  by_cases h1 : i < 52
  · simp [h1]; omega
  · by_cases h2 : i < 63
    · have : i - 52 < 11 := by omega
      have h3 : 52 + (i - 52) = i := by omega
      simp [h1, this, h3]; omega
    · have h3 : i = 63 := by omega
      subst h3
      simp [BitVec.msb_eq_getLsbD_last]

/-- The pattern of what a pattern stands for is that pattern, unless it is a NaN. -/
theorem bits64_real (free u : Word) (h : real u ≠ .nan) : bits64 free (real u) = u := by
  conv_rhs => rw [word_fields u]
  unfold real at h ⊢
  split
  · simp only [bits64]
    generalize u.extractLsb' 52 11 = e
    congr 2
    apply BitVec.eq_of_toNat_eq
    simp only [BitVec.toNat_ofNat]
    exact Nat.mod_eq_of_lt e.isLt
  · next hlt =>
    have h2047 : u.extractLsb' 52 11 = 2047#11 := by
      generalize u.extractLsb' 52 11 = e at hlt
      apply BitVec.eq_of_toNat_eq
      have := e.isLt
      rw [BitVec.toNat_ofNat]
      omega
    rw [dif_neg hlt] at h
    split
    · next hf => rw [hf, h2047]; rfl
    · next hf => rw [if_neg hf] at h; exact absurd rfl h

/-- Two patterns of one real that is not a NaN are the same. -/
theorem real_inj {u v : Word} (h : real u = real v) (hn : real u ≠ .nan) : u = v := by
  rw [← bits64_real 0 u hn, ← bits64_real 0 v (h ▸ hn), h]

end Sys2Proof
end

