-- ==== Sys2Proof/Tests/Slice0.lean ====
section
/-!
SUPPORT. The model's own tests: the checks of WellFormed, words decoded as spec/30_encoding.md R150 writes them, single
values of spec/95_test_vectors.md, one step of each command, and a witness for the hypotheses of every statement.
Expected values come from the spec; where a test's comment names a vector or a program, it is that one's.
-/

namespace Sys2Proof.Tests

-- One test after the other: many kernel evaluations at once take more threads than the check's memory limit allows.
set_option Elab.async false

open Sys2Proof Sys2Proof.Machine Sys2Proof.Config Host

/-! ### WellFormed: the check and what it refuses -/

theorem test_wellformed_refuses_channel_2 : ¬ (Instr.smp 2 0).WellFormed := by decide
theorem test_wellformed_refuses_channel_255 : ¬ (Instr.smp 255 0).WellFormed := by decide
theorem test_wellformed_admits_both_channels : (Instr.smp 0 0).WellFormed ∧ (Instr.smp 1 0).WellFormed := by decide

/-! ### Decoding: words written out from R141 and R143, field by field (OPC, BANK, IDX, CH, RSV) -/

theorem test_decode_nop (d : Word) : decode 0b00000000_00_000000_00000000_00000000 d = .cmd .nop := by rfl
theorem test_decode_wrreg : decode 0b00000001_10_011001_00000000_00000000 0xBFD0000000000000 =
    .cmd (.wrreg 2 0x19 0xBFD0000000000000) := by decide
theorem test_decode_rdreg (d : Word) : decode 0b00000010_11_001100_00000000_00000000 d = .cmd (.rdreg 3 0x0C) := by rfl
theorem test_decode_setsr : decode 0b00000011_00_000000_00000000_00000000 0x40E7700000000000 =
    .cmd (.setsr 0x40E7700000000000) := by decide
theorem test_decode_reset (d : Word) : decode 0b00000100_00_000000_00000000_00000000 d = .cmd .reset := by rfl
theorem test_decode_block (d : Word) : decode 0b00000101_00_000000_00000000_00000000 d = .cmd .block := by rfl
theorem test_decode_smp : decode 0b00000110_00_000000_00000001_00000000 0xBFF0000000000000 =
    .cmd (.smp 1 0xBFF0000000000000) := by decide
theorem test_decode_refuses (d : Word) :
    decode 0x07000000 d = .badCmd ∧ decode 0xFF000000 d = .badCmd ∧ decode 0x06000200 d = .badCmd ∧
    decode 0x00000001 d = .badCmd ∧ decode 0x03400000 d = .badCmd ∧ decode 0x04010000 d = .badCmd ∧
    decode 0x01000100 d = .badCmd := by
  refine ⟨?_, ?_, ?_, ?_, ?_, ?_, ?_⟩ <;> rfl
theorem test_table_word : decodeTableWord 32 0x01C10000 = some (.wrreg 3 1 0) ∧
    decodeTableWord 96 0x4018000000000000_01020000 = some (.wrreg 0 2 0x4018000000000000) := by decide
/-- R103: byte 0 holds bits [7:0]. -/
theorem test_decode_bytes : decodeBytes [0, 1, 0, 6] [0, 0, 0, 0, 0, 0, 0xE0, 0x3F] =
    some (.cmd (.smp 1 0x3FE0000000000000)) ∧ decodeBytes [0, 0, 0] [] = none := by decide

/-! ### The assembler (R148, R149) -/

theorem test_assemble_value : (assembleLine "  WRREG OFS_R.EQ_BASS_GAIN_OFS, -0.25 ; quarter dB down").map (·.map encode) =
    some [(0x01990000, 0xBFD0000000000000)] := by decide +kernel
theorem test_assemble_processblock : (assembleLine "PROCESSBLOCK 1: 0.5, -inf").map (·.map encode) =
    some [(0x05000000, 0), (0x06000000, 0x3FE0000000000000), (0x06000100, 0xFFF0000000000000)] := by decide +kernel
theorem test_assemble_refuses : assembleLine "SMP 2, 1.0" = none ∧ assembleLine "WRREG PI_ALGO, 1.0" = none := by
  decide +kernel

/-! ### Values of spec/95_test_vectors.md -/

/-- V8: the first `rand01` of the PI instance's left seed. -/
theorem test_rand01 : bits64 0 (rand01 0x9E3779B9).2 = 0x3FD4431186400000 := by decide +kernel
/-- V3 and V4: table interpolation. -/
theorem test_tables : bits64 0 (lutLin optAtkTableDefault (real 0x4002000000000000)) = 0x401F000000000000 ∧
    bits64 0 (lutExp optRelTableDefault (real 0x4008000000000000)) = 0x4071300000000000 := by decide +kernel
/-- V6: `db2lin(-6.0)`, and `lin2db(0.0)`. -/
theorem test_decibels : bits64 0 (db2lin libmDefault (real 0xC018000000000000)) = 0x3FE009B9CF334252 ∧
    bits64 0 (lin2db libmDefault c0) = 0xFFF0000000000000 := by decide +kernel
/-- V5: `onepole(10 ms)` at 48 kHz. -/
theorem test_onepole : bits64 0 (onepole libmDefault (F64.ofNat 48000) (F64.ofNat 10)) = 0x3FEFEEF37B358867 := by
  decide +kernel
/-- S1: the drive map at 9 dB. -/
theorem test_drive : bits64 0 (driveMap libmDefault (F64.ofNat 9)).g = 0x40068C0C59AB1564 ∧
    bits64 0 (driveMap libmDefault (F64.ofNat 9)).ch = 0x3FE0000000000000 := by decide +kernel
/-- S3: the Tube shape on either half. -/
theorem test_tube : bits64 0 (tubeShape defaults (F64.dec 5 1) c1 c2) = 0x3FD8000000000000 ∧
    bits64 0 (tubeShape defaults (F64.dec 5 1).neg c1 c2) = 0xBFDC000000000000 := by decide +kernel
/-- F1: the lowpass at 1 kHz, Q 0.707, 48 kHz. -/
theorem test_lowpass :
    bits64 0 (lpfDesignDefault libmDefault (F64.ofNat 1000) qNormal (F64.ofNat 48000)).a1 = 0xBFFD0B8ACC7A9E43 := by
  decide +kernel
/-- E2: the bell Q at 15 dB and 1750 Hz. -/
theorem test_bell_q : bits64 0 (bellQ defaults (F64.ofNat 15) (F64.ofNat 1750) c0) = 0x3FE8000000000000 := by
  decide +kernel
/-- R357: line lengths at three rates. -/
theorem test_delay_lines : tapeBuf params (F64.ofNat 44100) = 6 ∧ tapeBuf params (F64.ofNat 48000) = 7 ∧
    tapeBuf params (F64.ofNat 96000) = 11 := by decide +kernel
/-- The literals of Machine/Libm.lean against relations they must satisfy: `sin(pi/2)` at full precision is 1, and the
exponential series at `ln 2` and at `ln 10` gives 2 and 10, each within 2^-370. -/
theorem test_library_literals :
    Libm.sinFix (Libm.halfPi / 2 ^ (Libm.piPrec - Libm.prec)) + 2 ^ 14 ≥ Libm.one ∧
    (Libm.expSeries Libm.ln2 80 Libm.one + 2 ^ 14) / 2 ^ 15 = 2 * Libm.one / 2 ^ 15 ∧
    (Libm.expSeries Libm.ln10 200 Libm.one + 2 ^ 14) / 2 ^ 15 = 10 * Libm.one / 2 ^ 15 := by decide +kernel

/-! ### One step of each command -/

/-- A configured block at 48 kHz that nothing else has happened to. -/
def at48k : State := setsrWith params 0x40E7700000000000 State.reset

/-- The response of a step. -/
def answer : Outcome State Fault Refusal → Option Response
  | .next t => t.resp
  | _ => none

theorem test_nop : answer (exec .nop State.reset) = some ⟨.ok, 0⟩ := by rfl
/-- CM1-like: a write reads back at once, and is not yet active. -/
theorem test_wrreg : (match exec (.wrreg 0 0x02 0x4018000000000000) State.reset with
    | .next t => (t.shadow.piDrive, t.act.param.piDrive)
    | _ => (0, 0)) = (0x4018000000000000, 0) := by decide +kernel
/-- P4: an enumeration code out of range, an offset that is infinite, a read-only register. -/
theorem test_wrreg_refused :
    (match exec (.wrreg 0 0x01 4) State.reset with | .next t => t.errs | _ => 0) = 0b00100 ∧
    (match exec (.wrreg 1 0x02 0x7FF0000000000000) State.reset with | .next t => t.errs | _ => 0) = 0b00100 ∧
    (match exec (.wrreg 3 0x00 0) State.reset with | .next t => t.errs | _ => 0) = 0b00010 := by decide +kernel
theorem test_rdreg : answer (exec (.rdreg 3 0x00) State.reset) = some ⟨.ok, 0x0000000041430007⟩ := by rfl
theorem test_rdreg_reserved : answer (exec (.rdreg 0 0x03) State.reset) = some ⟨.err, 0⟩ := by decide +kernel
/-- R205: SR and STATUS after SETSR 48000.0. -/
theorem test_setsr : answer (exec (.rdreg 3 0x02) at48k) = some ⟨.ok, 0x40E7700000000000⟩ ∧
    answer (exec (.rdreg 3 0x01) at48k) = some ⟨.ok, 1⟩ ∧ at48k.chL.pi.tape.line.len = 7 := by decide +kernel
theorem test_setsr_rejected : answer (exec (.setsr 0x7FF0000000000000) State.reset) = some ⟨.err, 0⟩ ∧
    answer (exec (.setsr 0x8000000000000000) State.reset) = some ⟨.err, 0⟩ := by decide +kernel
theorem test_reset : (match exec .reset { at48k with act := { at48k.act with
      param := at48k.act.param.set .ovBypass 0 } } with
    | .next t => (t.chL.mix.ov, t.chL.mix.pi)
    | _ => (.nan, .nan)) = (c0, c1) := by decide +kernel
theorem test_block : (match exec .block { State.reset with shadow := State.reset.shadow.set .ovGain 7 } with
    | .next t => t.act.param.ovGain
    | _ => 0) = 7 := by rfl
/-- P4: SMP before configuration; STATUS bit 5 and ERRCMD. -/
theorem test_smp_not_configured : (match exec (.smp 1 0x3FE0000000000000) State.reset with
    | .next t => (t.errs, t.errCmd)
    | _ => (0, 0)) = (0b10000, 0x06000100) := by decide +kernel
/-- P2: an active output volume at -6 dB, its mix at 0 after RESET, with every other stage bypassed. -/
theorem test_smp : bits64 0 (chain (State.env params { at48k with act := { at48k.act with
      param := (at48k.act.param.set .ovBypass 0).set .ovGain 0xC018000000000000 } } .L)
    { at48k.chL with mix := at48k.chL.mix.set .ov c0 } c1).2 = 0x3FE009B9CF334252 := by decide +kernel

/-! ### Witnesses: concrete data that meet the hypotheses of the statements -/

/-- StepKeepsInvariant: a sound state that has a command waiting. -/
theorem test_witness_StepKeepsInvariant :
    (State.reset.withPort [.command 0 0]).Inv ∧ ∃ t, step (State.reset.withPort [.command 0 0]) = .next t := by
  have hr : real 0 = c0 := by decide +kernel
  have hl : tapeBuf params c0 = 2 := by decide +kernel
  refine ⟨⟨⟨?_, ?_, ?_, ?_, ?_, ?_⟩, rfl, by decide +kernel, ?_, ?_, ?_⟩, _, rfl⟩
  · intro r; cases r <;> decide +kernel
  · intro r; cases r <;> decide +kernel
  · intro r; cases r <;> decide +kernel
  · intro r; cases r <;> decide +kernel
  · intro r; cases r <;> decide +kernel
  · intro r; cases r <;> decide +kernel
  · show ChanState.Sound _ (tapeBuf params (real 0))
    rw [hr, hl]
    exact ⟨⟨⟨List.Pairwise.nil, by decide⟩, by decide +kernel, by decide +kernel, by decide +kernel⟩,
      ⟨⟨List.Pairwise.nil, by decide⟩, by decide +kernel, by decide +kernel, by decide +kernel⟩,
      by decide +kernel, by decide +kernel, by decide +kernel, by decide +kernel, by decide +kernel⟩
  · show ChanState.Sound _ (tapeBuf params (real 0))
    rw [hr, hl]
    exact ⟨⟨⟨List.Pairwise.nil, by decide⟩, by decide +kernel, by decide +kernel, by decide +kernel⟩,
      ⟨⟨List.Pairwise.nil, by decide⟩, by decide +kernel, by decide +kernel, by decide +kernel⟩,
      by decide +kernel, by decide +kernel, by decide +kernel, by decide +kernel, by decide +kernel⟩
  · intro idx
    simp [State.withPort, State.reset, State.powerOn]

/-- DecodeOfEncode: the largest legal CH. -/
theorem test_witness_DecodeOfEncode : (Instr.smp 1 0x7FF8000000000000).WellFormed := by decide

theorem test_witness_EncodeOfDecode : decode 0x06000100 5 = .cmd (.smp 1 5) ∧
    decode 0x01FF0000 (~~~0) = .cmd (.wrreg 3 0x3F (~~~0)) ∧
    decode 0x03000000 (~~~0) = .cmd (.setsr (~~~0)) := by decide

/-- OpcodeMapComplete: a word that matches no row. -/
theorem test_witness_OpcodeMapComplete :
    (∀ r ∈ opcodeTable, (0x07000000 : CmdWord) &&& r.mask ≠ r.pattern) ∧
    (State.reset.withPort [.command 0x07000000 0]).port = .command 0x07000000 0 :: [] := ⟨by decide, rfl⟩

/-- ReservedWordsEndWithBadCmd: each clause at its boundary (opcode 7, IDX 1, CH 1, CH 2, RSV 1). -/
theorem test_witness_ReservedWordsEndWithBadCmd :
    7 ≤ ((0x07000000 : CmdWord).extractLsb' 24 8).toNat ∧ (0x00010000 : CmdWord).extractLsb' 16 6 ≠ 0 ∧
    ((0x01000100 : CmdWord).extractLsb' 24 8 ≠ 0x06 ∧ (0x01000100 : CmdWord).extractLsb' 8 8 ≠ 0) ∧
    ((0x06000200 : CmdWord).extractLsb' 24 8 = 0x06 ∧ (0x06000200 : CmdWord).extractLsb' 9 7 ≠ 0) ∧
    (0x02000001 : CmdWord).extractLsb' 0 8 ≠ 0 ∧
    (State.reset.withPort [.command 0x07000000 9]).port = .command 0x07000000 9 :: [] := by
  refine ⟨by decide, by decide, by decide, by decide, by decide, rfl⟩

theorem test_witness_StepRunsDecoded :
    (State.reset.withPort [.command 0x01380000 0, .powerOn]).port = .command 0x01380000 0 :: [.powerOn] ∧
    decode 0x01380000 0 = .cmd (.wrreg 0 0x38 0) := ⟨rfl, by decide⟩

theorem test_witness_IdleAndPowerOnSteps :
    State.reset.port = [] ∧ (State.reset.withPort [.powerOn]).port = .powerOn :: [] := ⟨rfl, rfl⟩

theorem test_witness_OneResponsePerCommand : ∃ t, exec (.rdreg 3 0) State.reset = .next t := ⟨_, rfl⟩

theorem test_witness_ErrorPathIsPrecise :
    ∃ t, exec (.smp 0 0) State.reset = .next t ∧ ∃ w, t.resp = some ⟨.err, w⟩ := ⟨_, rfl, 0, rfl⟩

/-- ErrorPathIsPrecise, its second clause: STATUS reads 0x2, and 0 after the write. -/
theorem test_witness_ErrorPathIsPrecise_clear :
    ({ State.reset with errs := 1 } : State).regRead (.stat .status) = 2 ∧
    ∃ t, exec (.wrreg 3 0x01 0x2) { State.reset with errs := 1 } = .next t ∧ t.regRead (.stat .status) = 0 := by
  refine ⟨show statusWord 1 false = 2 by decide, _, rfl, ?_⟩
  show statusWord _ false = 0
  decide

/-- StatusRegister: a bit that is set and gets cleared. -/
theorem test_witness_StatusRegister :
    ∃ t, exec (.wrreg 3 0x01 0x2) { State.reset with errs := 1 } = .next t ∧
      ({ State.reset with errs := 1 } : State).errs.getLsbD 0 = true ∧ t.errs.getLsbD 0 = false :=
  ⟨_, rfl, by decide, by decide⟩

theorem test_witness_StickyBitsDoNotBlock :
    ∃ t, exec .block State.reset = .next t ∧ Instr.block ≠ .rdreg 3 0x01 ∧ Instr.block ≠ .rdreg 3 0x03 :=
  ⟨_, rfl, by decide, by decide⟩

theorem test_witness_ConfiguredBit :
    (∃ t, exec (.setsr 0x40E7700000000000) State.reset = .next t) ∧
    (at48k.withPort [.powerOn]).port = .powerOn :: [] := ⟨⟨_, rfl⟩, rfl⟩

/-- WrregParameter: a flag, the last code of an enumeration, and an infinite real. -/
theorem test_witness_WrregParameter : PReg.ovBypass.kind.accepts 1 = true ∧
    PReg.eqB1Fidx.kind.accepts 14 = true ∧ PReg.hpfFreq.kind.accepts 0x7FF0000000000000 = true := by decide +kernel

/-- WrregOffset: the largest finite offset. -/
theorem test_witness_WrregOffset : Kind.offset.accepts 0x7FEFFFFFFFFFFFFF = true := by decide +kernel

/-- WrregErrors: a reserved address, a read-only register, the first code past an enumeration, an infinite offset. -/
theorem test_witness_WrregErrors : regName 0 0x03 = none ∧ ((3 : BitVec 2) = 3 ∧ (0x00 : BitVec 6) ≠ 0x01) ∧
    PReg.eqB1Fidx.kind.accepts 15 = false ∧ Kind.offset.accepts 0xFFF0000000000000 = false := by decide +kernel

theorem test_witness_WrregIdempotent : ∃ t, exec (.wrreg 1 0x3F 0) State.reset = .next t := ⟨_, rfl⟩

theorem test_witness_ReadsChangeNothing : (regName 3 0x11).isSome = true ∧ regName 3 0x12 = none := by decide

/-- ReadReturnsLastWrite: an accepted write, then a write elsewhere and a BLOCK. -/
theorem test_witness_ReadReturnsLastWrite :
    (RegName.param .ovGain).bank ≠ 3 ∧
    (∀ j ∈ ([.wrreg 0 0x32 0, .block] : List Instr), ∀ d,
      j ≠ .wrreg (RegName.param .ovGain).bank (RegName.param .ovGain).idx d) ∧
    ∃ t, exec (.wrreg 0 0x39 0) State.reset = .next t ∧ t.resp = some ⟨.ok, 0⟩ ∧
      (∃ rs u, runCommands [.wrreg 0 0x32 0, .block] t = some (rs, u)) ∧
      ∃ rs u, runCommands [.wrreg 0 0x32 0, .block] State.reset = some (rs, u) := by
  refine ⟨by decide, ?_, _, rfl, by decide +kernel, ⟨_, _, rfl⟩, _, _, rfl⟩
  intro j hj d
  simp only [List.mem_cons, List.not_mem_nil, or_false] at hj
  rcases hj with rfl | rfl <;> simp [RegName.bank, RegName.idx, PReg.idx]

/-- SetsrRateChange: the smallest positive rate; a first rate, another rate, and the rate in force. -/
theorem test_witness_SetsrRateChange :
    (c0.lt (real 1) = true ∧ real 1 ≠ .inf false ∧ State.reset.configured = false) ∧
    (c0.lt (real 0x40E5888000000000) = true ∧ real 0x40E5888000000000 ≠ .inf false ∧ at48k.configured = true ∧
      (real 0x40E5888000000000).feq (real at48k.sr) = false) ∧
    (c0.lt (real 0x40E7700000000000) = true ∧ real 0x40E7700000000000 ≠ .inf false ∧
      (real 0x40E7700000000000).feq (real at48k.sr) = true) := by decide +kernel

/-- SetsrRejected: a NaN, a zero of each sign, a negative rate, plus infinity. -/
theorem test_witness_SetsrRejected : (real 0x7FF0000000000001).isNaN = true ∧ (real 0).le c0 = true ∧
    (real 0x8000000000000000).le c0 = true ∧ (real 0xC0E7700000000000).le c0 = true ∧
    real 0x7FF0000000000000 = .inf false := by decide +kernel

theorem test_witness_CoefficientsChangeOnlyAtBlockAndSetsr :
    ∃ t, exec .block { State.reset with shadow := State.reset.shadow.set .ovGain 7 } = .next t ∧
      t.env params .L ≠ State.env params { State.reset with shadow := State.reset.shadow.set .ovGain 7 } .L :=
  ⟨_, rfl, fun h => absurd (congrArg (fun e => e.act.param.ovGain) h) (by decide)⟩

theorem test_witness_SmpResult : at48k.configured = true := by decide +kernel

theorem test_witness_SmpNotConfigured : State.reset.configured = false := rfl

/-- SmpReadsOnlyItsChannel: two states with other shadow registers and another right channel. -/
theorem test_witness_SmpReadsOnlyItsChannel :
    let s : State := { State.reset with configured := true }
    let s' : State := { s with shadow := State.reset.shadow.set .ovGain 7, chR := State.reset.chL }
    s.sr = s'.sr ∧ s.act = s'.act ∧ s.configured = s'.configured ∧ s.chan .L = s'.chan .L ∧
    (∃ t, exec (smpOf .L 7) s = .next t) ∧ ∃ t', exec (smpOf .L 7) s' = .next t' :=
  ⟨rfl, rfl, rfl, rfl, ⟨_, rfl⟩, _, rfl⟩

/-- ChannelsInterleaveFreely: a frame in either order. -/
theorem test_witness_ChannelsInterleaveFreely : at48k.configured = true ∧
    ∀ c, samplesOf c [(.L, 1), (.R, 2), (.L, 3)] = samplesOf c [(.R, 2), (.L, 1), (.L, 3)] :=
  ⟨by decide +kernel, fun c => by cases c <;> rfl⟩

theorem test_witness_WritesWaitForBlock : (0 : BitVec 2) ≠ 3 ∧ Instr.block ∉ [Instr.smp 0 0] ∧
    ∃ t, exec (.wrreg 0 0x38 0) at48k = .next t ∧ t.resp = some ⟨.ok, 0⟩ :=
  ⟨by decide, by decide, _, rfl, by decide +kernel⟩

/-- CrossfadeCorners: +0.0 and the largest finite value, and values that are not finite. -/
theorem test_witness_CrossfadeCorners : (real 0x7FEFFFFFFFFFFFFF).isFinite = true ∧
    F64.zero false ≠ F64.zero true ∧ (F64.inf true).isFinite = false ∧ F64.nan.isFinite = false := by decide +kernel

/-- DeselectedKernelsHold: the reset selectors (all 0), and the last code of each. -/
theorem test_witness_DeselectedKernelsHold :
    let e := State.reset.env params .L
    let p : ParamBank := { State.reset.shadow with
      piAlgo := 3, osAlgo := 5, hpfSlope := 1, lpfSlope := 1, scAlgo := 1, coProfile := 4 }
    let f : Env := { e with act := { e.act with param := p } }
    (∀ r ∈ ([.piAlgo, .osAlgo, .hpfSlope, .lpfSlope, .scAlgo, .coProfile] : List PReg), e.code r = 0) ∧
    f.code .piAlgo = 3 ∧ f.code .osAlgo = 5 ∧ f.code .scAlgo ≠ 0 ∧ f.code .coProfile = 4 := by
  decide +kernel

/-- DriveBelowZeroHasNoCharacter: 0 dB, -0.0 dB and minus infinity. -/
theorem test_witness_DriveBelowZeroHasNoCharacter :
    c0.le c0 = true ∧ (F64.zero true).le c0 = true ∧ (F64.inf true).le c0 = true := by decide +kernel

theorem test_witness_UnityGainIsIdentity :
    (at48k.env params .L).cfg = params ∧ (at48k.env params .L).p .ovGain = c0 := ⟨rfl, by decide +kernel⟩

theorem test_witness_PureIsNeutralWithoutCharacter : (F64.dec 5 1).isFinite = true ∧ F64.dec 5 1 ≠ F64.zero true ∧
    (libmDefault.sin (F64.dec 5 1)).isFinite = true ∧ (c0.add (libmDefault.sin (F64.dec 5 1))).isFinite = true := by
  decide +kernel

/-- HardClip: above, below, and exactly at the ceiling. -/
theorem test_witness_HardClip :
    params.clipCeil.lt (c2.mul c1) = true ∧
    (params.clipCeil.lt (c2.neg.mul c1) = false ∧ (c2.neg.mul c1).lt params.clipCeil.neg = true) ∧
    (params.clipCeil.lt (c1.mul c1) = false ∧ (c1.mul c1).lt params.clipCeil.neg = false) := by decide +kernel

theorem test_witness_LowDynamicExactBypass : ((at48k.env params .L).p .ldRatio).feq c0 = true := by decide +kernel

/-- WarmUpCountsAndClamps: the last clamped step, and the first that is not. -/
theorem test_witness_WarmUpCountsAndClamps :
    ((⟨c0, c0, 99⟩ : LowDynamic).warm ≤ 100 ∧ (⟨c0, c0, 99⟩ : LowDynamic).warm < 100 ∧
      (ldyn (at48k.env params .L) c0 ⟨c0, c0, 99⟩).2.2.isNaN = false) ∧
    (⟨c0, c0, 100⟩ : LowDynamic).warm ≤ 100 := by decide +kernel

theorem test_witness_ShelfBanksAlternate : Shelf.reset.flip = false ∧ ({ Shelf.reset with flip := true } : Shelf).flip =
    true := ⟨rfl, rfl⟩

/-- SubnormalFlush: the smallest and the largest subnormal, and the smallest normal. -/
theorem test_witness_SubnormalFlush : (real 1).isSubnormal = true ∧ (real 0x800FFFFFFFFFFFFF).isSubnormal = true ∧
    (real 0x0010000000000000).isSubnormal = false := by decide +kernel

theorem test_witness_ComparisonAndSelection : c2.isNaN = false ∧ c0.lt c1 = true := by decide +kernel

theorem test_witness_LibrarySpecialOperands : (real 0x8000000000000001).lt c0 = true := by decide +kernel

theorem test_witness_XorshiftNeverZero : (0x80000000 : BitVec 32) ≠ 0 := by decide

/-- TapeStepWritesOneCell: the last cell of a line of two. -/
theorem test_witness_TapeStepWritesOneCell :
    (Tape.reset 2 c0 1).line.wf ∧ ({ Tape.reset 2 c0 1 with w := 1 } : Tape).w < (Tape.reset 2 c0 1).line.len :=
  ⟨⟨List.Pairwise.nil, by decide⟩, by decide⟩

theorem test_witness_MeterPortReads :
    (State.reset.withPort [.meterRead 0x11]).MeterSound ∧
    (State.reset.withPort [.meterRead 0x11]).port = .meterRead 0x11 :: [] ∧
    SReg.ofIdx 0x11 = some (.scgr .R) := by
  refine ⟨?_, rfl, by decide⟩
  intro idx
  simp [State.withPort, State.reset, State.powerOn]

theorem test_witness_MeterPortReservedIndex :
    (State.reset.withPort [.meterRead 0x04]).port = .meterRead 0x04 :: [] ∧ SReg.ofIdx 0x04 = none ∧
    SReg.ofIdx 0x03 = some .errCmd := ⟨rfl, by decide, by decide⟩

theorem test_witness_CommandBoundariesAreKept :
    (State.reset.withPort [.command 0x05000000 0]).port = .command 0x05000000 0 :: [] ∧
    ∃ t, step (State.reset.withPort [.command 0x05000000 0]) = .next t := ⟨rfl, _, rfl⟩

/-- MeterPortEventuallyCurrent: a fair way to lag, one less than the factorial. -/
theorem test_witness_MeterPortEventuallyCurrent :
    (State.reset.withPort [.meterRead 0x01]).port = .meterRead 0x01 :: [] ∧
    MeterFair (fun _ m => m.factorial - 1) ∧ State.reset.MeterSound ∧ SReg.ofIdx 0x01 = some .status := by
  refine ⟨rfl, fun _ n k => ⟨n + k + 1, by omega, ?_⟩, ?_, by decide⟩
  · obtain ⟨q, hq⟩ : k + 1 ∣ (n + k + 1).factorial := Nat.dvd_factorial (by omega) (by omega)
    have hpos : 0 < q := by
      rcases Nat.eq_zero_or_pos q with rfl | h
      · exact absurd hq (by simpa using (Nat.factorial_pos (n + k + 1)).ne')
      · exact h
    obtain ⟨p, rfl⟩ : ∃ p, q = p + 1 := ⟨q - 1, by omega⟩
    show ((n + k + 1).factorial - 1) % (k + 1) = k
    rw [hq, show (k + 1) * (p + 1) - 1 = k + (k + 1) * p by rw [Nat.mul_add]; omega, Nat.add_mul_mod_self_left]
    exact Nat.mod_eq_of_lt (by omega)
  · intro idx
    simp [State.reset, State.powerOn]

end Sys2Proof.Tests
end

section
/-!
The comparisons and selections of R17 as rules about the order that `rank` gives, and the special operands of R18's
default library: the proofs of O53 and O54.
-/

namespace Sys2Proof
namespace F64

/-! ### Comparison (R17) -/

/-- Only a NaN stands nowhere in the order. -/
theorem exists_rank {a : F64} (h : a.isNaN = false) : ∃ i, rank a = some i := by
  cases a with
  | nan => cases h
  | inf s => exact ⟨_, rfl⟩
  | fin s e f => exact ⟨_, rfl⟩

theorem lt_iff {a b : F64} : a.lt b = true ↔ ∃ i j, rank a = some i ∧ rank b = some j ∧ i < j := by
  unfold lt
  cases rank a <;> cases rank b <;> simp

@[simp] theorem lt_nan (a : F64) : a.lt .nan = false := by
  unfold lt
  cases rank a <;> rfl

@[simp] theorem nan_lt (a : F64) : F64.nan.lt a = false := rfl

@[simp] theorem le_nan (a : F64) : a.le .nan = false := by
  unfold le
  cases rank a <;> rfl

@[simp] theorem nan_le (a : F64) : F64.nan.le a = false := rfl

@[simp] theorem feq_nan (a : F64) : a.feq .nan = false := by
  unfold feq
  cases rank a <;> rfl

@[simp] theorem nan_feq (a : F64) : F64.nan.feq a = false := rfl

/-- Below a bound that `x` reaches is below `x`: where neither is a NaN, the order is total. -/
theorem lt_of_lt_of_not_lt {a b x : F64} (hab : a.lt b = true) (hx : x.isNaN = false) (hxb : x.lt b = false) :
    a.lt x = true := by
  obtain ⟨i, j, ha, hb, hij⟩ := lt_iff.mp hab
  obtain ⟨k, hk⟩ := exists_rank hx
  have hjk : ¬ k < j := fun hkj => by
    rw [lt_iff.mpr ⟨k, j, hk, hb, hkj⟩] at hxb
    cases hxb
  exact lt_iff.mpr ⟨i, k, ha, hk, by omega⟩

theorem rank_zero (s : Bool) : rank (zero s) = some 0 := by cases s <;> rfl

/-- `+0 == -0`, and each equals itself. -/
theorem zero_feq_zero (s t : Bool) : (zero s).feq (zero t) = true := by
  simp only [feq, rank_zero, decide_true]

/-! ### Selection (R17) -/

theorem min_nan (a : F64) : min a .nan = a := by simp only [min, nan_lt, Bool.false_eq_true, if_false]

theorem max_nan (a : F64) : max a .nan = a := by simp only [max, lt_nan, Bool.false_eq_true, if_false]

theorem nan_min (a : F64) : min .nan a = .nan := by simp only [min, lt_nan, Bool.false_eq_true, if_false]

theorem nan_max (a : F64) : max .nan a = .nan := by simp only [max, nan_lt, Bool.false_eq_true, if_false]

theorem min_of_lt {a b : F64} (h : b.lt a = true) : min a b = b := if_pos h

/-- What lies below `lo` lies below the larger of `lo` and a number. -/
theorem lt_max_of_lt {x lo hi : F64} (hx : x.isNaN = false) (h : hi.lt lo = true) : hi.lt (max x lo) = true := by
  unfold max
  split
  · exact h
  · next hlo => exact lt_of_lt_of_not_lt h hx (Bool.eq_false_of_not_eq_true hlo)

/-- An empty range: the upper bound wins. -/
theorem clamp_of_empty {x lo hi : F64} (hx : x.isNaN = false) (h : hi.lt lo = true) : clamp x lo hi = hi :=
  min_of_lt (lt_max_of_lt hx h)

/-! ### Below zero -/

/-- A signed number of units is negative when the sign bit is set and it is not zero. -/
theorem signed_neg_iff {s : Bool} {u : Nat} : signed s u < 0 ↔ s = true ∧ u ≠ 0 := by
  cases s with
  | false => simp only [signed, Bool.false_eq_true, if_false, false_and, iff_false]; omega
  | true => simp only [signed, if_true, true_and]; omega

theorem lt_zero_iff {x : F64} {t : Bool} : x.lt (zero t) = true ↔ ∃ i, rank x = some i ∧ i < 0 := by
  simp only [lt_iff, rank_zero, Option.some.injEq, ↓existsAndEq, true_and]

/-- A finite real below zero has its sign bit set and is not a zero. -/
theorem fin_lt_zero {s t : Bool} {e : Fin 2047} {f : BitVec 52} (h : (F64.fin s e f).lt (zero t) = true) :
    s = true ∧ units e f ≠ 0 := by
  obtain ⟨_, ⟨⟩, hneg⟩ := lt_zero_iff.mp h
  exact signed_neg_iff.mp hneg

/-- An infinity below zero is the negative one. -/
theorem inf_lt_zero {s t : Bool} (h : (F64.inf s).lt (zero t) = true) : s = true := by
  obtain ⟨_, ⟨⟩, hneg⟩ := lt_zero_iff.mp h
  exact (signed_neg_iff.mp hneg).1

end F64

/-! ### The default library (R18) -/
namespace Libm

theorem log10_zero (s : Bool) : log10 (F64.zero s) = .inf true := rfl

theorem log10_of_lt_zero {x : F64} {t : Bool} (h : x.lt (F64.zero t) = true) : log10 x = .nan := by
  cases x with
  | nan => rfl
  | inf s =>
    obtain rfl := F64.inf_lt_zero h
    rfl
  | fin s e f =>
    obtain ⟨rfl, hu⟩ := F64.fin_lt_zero h
    simp only [log10, hu, if_false, if_true]

theorem exp_neg_inf : exp (.inf true) = F64.zero false := rfl

end Libm

/-- Settles O53: each clause is a rule above; `min`, `max`, `abs` and `sign` are R17's formulas as defined. -/
theorem comparisonAndSelection : Obligations.ComparisonAndSelection := by
  refine ⟨fun a => ?nan, F64.zero_feq_zero false true, fun _ _ => ⟨rfl, rfl⟩, fun a => ?selectNan, ?clamp,
    fun _ _ _ => ⟨rfl, rfl⟩, fun _ => rfl⟩
  case nan => exact ⟨F64.lt_nan a, F64.nan_lt a, F64.le_nan a, F64.nan_le a, F64.feq_nan a, F64.nan_feq a⟩
  case selectNan => exact ⟨F64.min_nan a, F64.max_nan a, F64.nan_min a, F64.nan_max a⟩
  case clamp => exact fun _ _ _ hx h => F64.clamp_of_empty hx h

/-- Settles O54, by the rules of `Libm.log10` and `Libm.exp`, which are the default LIBM's fields. -/
theorem librarySpecialOperands : Obligations.LibrarySpecialOperands :=
  ⟨Libm.log10_zero, fun _ hx => Libm.log10_of_lt_zero hx, Libm.exp_neg_inf⟩

end Sys2Proof
end

section
/-!
What a command can do, said once: `CommandEffect` lists every next state that `exec` has, with the guard it comes under.
The proofs of O3, O15, O17 and O27 go through it.
-/

namespace Sys2Proof.Machine

open Config

/-- The next states of a command in state `s`, one constructor per way it can end. -/
inductive CommandEffect (s : State) : Instr → State → Prop
  | raised (i : Instr) (e : CmdError) : CommandEffect s i (s.raise e (encodeWord i))
  | nop : CommandEffect s .nop (s.ok 0)
  | read {b : BitVec 2} {x : BitVec 6} {n : RegName} (hn : regName b x = some n) :
      CommandEffect s (.rdreg b x) (s.ok (s.regRead n))
  | wroteParam {b : BitVec 2} {x : BitVec 6} {d : Word} {r : PReg} (hn : regName b x = some (.param r))
      (hd : r.kind.accepts d = true) : CommandEffect s (.wrreg b x d) ((s.setParam r d).ok 0)
  | wroteOfs {b : BitVec 2} {x : BitVec 6} {d : Word} {c : Chan} {r : OReg} (hn : regName b x = some (.ofs c r))
      (hd : Kind.offset.accepts d = true) : CommandEffect s (.wrreg b x d) ((s.setOfs c r d).ok 0)
  | wroteStatus {b : BitVec 2} {x : BitVec 6} {d : Word} (hn : regName b x = some (.stat .status)) :
      CommandEffect s (.wrreg b x d) ((s.clearStatus d).ok 0)
  | rateSet {d : Word} (hd : rateAccepted (real d) = true) (hc : rateChanged s (real d) = true) :
      CommandEffect s (.setsr d) ((({ s with sr := d, configured := true } : State).resetChannels params).ok 0)
  | rateKept {d : Word} (hd : rateAccepted (real d) = true) (hc : rateChanged s (real d) = false) :
      CommandEffect s (.setsr d) (({ s with sr := d, configured := true } : State).ok 0)
  | channelsReset : CommandEffect s .reset ((s.resetChannels params).ok 0)
  | latched : CommandEffect s .block (s.latch.ok 0)
  | sampled {ch : BitVec 8} {c : Chan} {d : Word} (hch : Chan.ofCh ch = some c) (hs : s.configured = true) :
      CommandEffect s (.smp ch d) (sampleWith params c (real d) s)

theorem commandEffect_wrreg (s : State) (b : BitVec 2) (x : BitVec 6) (d : Word) :
    ∃ t, execWrreg b x d s = .next t ∧ CommandEffect s (.wrreg b x d) t := by
  cases hn : regName b x with
  | none => exact ⟨_, execWrreg_of_reserved d s hn, .raised _ _⟩
  | some n =>
    have hok {t : State} (hw : s.regWrite n d = .ok t) : execWrreg b x d s = .next (t.ok 0) := by
      simp only [execWrreg, hn, hw]
    have herr {e : CmdError} (hw : s.regWrite n d = .error e) :
        execWrreg b x d s = .next (s.raise e (encodeWord (.wrreg b x d))) := by
      simp only [execWrreg, hn, hw]
    rcases s.regWrite_cases n d with ⟨r, rfl, hd, hw⟩ | ⟨c, r, rfl, hd, hw⟩ | ⟨rfl, hw⟩ | ⟨-, hw⟩ | ⟨-, hw⟩ | ⟨-, hw⟩
    · exact ⟨_, hok hw, .wroteParam hn hd⟩
    · exact ⟨_, hok hw, .wroteOfs hn hd⟩
    · exact ⟨_, hok hw, .wroteStatus hn⟩
    all_goals exact ⟨_, herr hw, .raised _ _⟩

theorem commandEffect_rdreg (s : State) (b : BitVec 2) (x : BitVec 6) :
    ∃ t, execRdreg b x s = .next t ∧ CommandEffect s (.rdreg b x) t := by
  cases hn : regName b x with
  | none => exact ⟨_, execRdreg_of_reserved s hn, .raised _ _⟩
  | some n => exact ⟨_, execRdreg_of_exists s hn, .read hn⟩

theorem commandEffect_setsr (s : State) (d : Word) : CommandEffect s (.setsr d) (setsrWith params d s) := by
  cases hd : rateAccepted (real d) with
  | false => rw [setsrWith_of_rejected params s hd]; exact .raised _ _
  | true =>
    cases hc : rateChanged s (real d) with
    | false => rw [setsrWith_of_same params s hd hc]; exact .rateKept hd hc
    | true => rw [setsrWith_of_changed params s hd hc]; exact .rateSet hd hc

theorem commandEffect_smp (s : State) (ch : BitVec 8) (d : Word) :
    CommandEffect s (.smp ch d) (smpWith params ch d s) := by
  cases hch : Chan.ofCh ch with
  | none => rw [smpWith_of_noChan params d s hch]; exact .raised _ _
  | some c =>
    cases hs : s.configured with
    | false => rw [smpWith_of_notCfg params d s hch hs]; exact .raised _ _
    | true => rw [smpWith_of_configured params d s hch hs]; exact .sampled hch hs

/-- Every command has a next state, and it is one of those listed. -/
theorem exists_commandEffect (i : Instr) (s : State) : ∃ t, exec i s = .next t ∧ CommandEffect s i t := by
  cases i with
  | nop => exact ⟨_, rfl, .nop⟩
  | wrreg b x d => exact commandEffect_wrreg s b x d
  | rdreg b x => exact commandEffect_rdreg s b x
  | setsr d => exact ⟨_, rfl, commandEffect_setsr s d⟩
  | reset => exact ⟨_, rfl, .channelsReset⟩
  | block => exact ⟨_, rfl, .latched⟩
  | smp ch d => exact ⟨_, rfl, commandEffect_smp s ch d⟩

/-- What a command leaves is one of the listed next states. -/
theorem commandEffect_of_exec {i : Instr} {s t : State} (h : exec i s = .next t) : CommandEffect s i t := by
  obtain ⟨u, hu, he⟩ := exists_commandEffect i s
  rw [hu] at h
  cases h
  exact he

end Sys2Proof.Machine
end

section
/-!
The invariant of a channel, part by part: `ChanState.PartsSound` is `ChanState.Sound` with one field per stage, so that
a stage's proof speaks of its own part only.  Every value a kernel stores goes through `dnz`, and flush to zero lets no
subnormal pass.
-/

namespace Sys2Proof.Machine

open Config

/-! ### Reals without a subnormal -/

/-- No real of the list is subnormal. -/
def Flushed (l : List F64) : Prop := ∀ v ∈ l, v.isSubnormal = false

@[simp] theorem flushed_nil : Flushed [] := fun _ h => absurd h List.not_mem_nil

@[simp] theorem flushed_cons {v : F64} {l : List F64} : Flushed (v :: l) ↔ v.isSubnormal = false ∧ Flushed l := by
  simp [Flushed]

@[simp] theorem flushed_append {l m : List F64} : Flushed (l ++ m) ↔ Flushed l ∧ Flushed m := by
  simp [Flushed, or_imp, forall_and]

@[simp] theorem c0_isSubnormal : c0.isSubnormal = false := by decide

@[simp] theorem c1_isSubnormal : c1.isSubnormal = false := by
  rw [c1, F64.ofNat_one]
  rfl

/-! ### The parts of a channel

What `ChanState.reals` lists, stage by stage. -/

def PiSat.reals (st : PiSat) : List F64 := st.purePrev :: st.tubePrev :: st.tape.reals

def Filters.reals (st : Filters) : List F64 := st.hpf0.reals ++ st.hpf1.reals ++ st.lpf0.reals ++ st.lpf1.reals

def ControlComp.reals (st : ControlComp) : List F64 := [st.env, st.gain]

def LowDynamic.reals (st : LowDynamic) : List F64 := [st.ms, st.gdb]

def Shelf.reals (st : Shelf) : List F64 := st.bankA.reals ++ st.bankB.reals

def Equaliser.reals (st : Equaliser) : List F64 := st.bass.reals ++ st.treb.reals ++ st.bell1.reals ++ st.bell2.reals

def StyleComp.reals (st : StyleComp) : List F64 :=
  [st.warm.e1, st.warm.e2, st.warm.gain, st.punch.env, st.punch.gain]

def Console.reals (st : Console) : List F64 := [st.purePrev, st.lpA, st.lpB, st.h1, st.h2]

def OsSat.reals (st : OsSat) : List F64 := st.purePrev :: st.tubePrev :: st.softLast :: st.tape.reals

/-- `ChanState.Sound`, its clause on subnormals cut by stage. -/
structure ChanState.PartsSound (x : ChanState) (len : Nat) : Prop where
  piTape : x.pi.tape.Sound len
  osTape : x.os.tape.Sound len
  rng : x.co.rng ≠ 0
  warm : x.ld.warm ≤ ldWarmupN
  inpk : isMagnitude x.m.inpk = true
  outpk : isMagnitude x.m.outpk = true
  pi : Flushed x.pi.reals
  fl : Flushed x.fl.reals
  cc : Flushed x.cc.reals
  ld : Flushed x.ld.reals
  eq : Flushed x.eq.reals
  sc : Flushed x.sc.reals
  co : Flushed x.co.reals
  os : Flushed x.os.reals

theorem ChanState.flushed_reals_iff (x : ChanState) :
    Flushed x.reals ↔ Flushed x.pi.reals ∧ Flushed x.fl.reals ∧ Flushed x.cc.reals ∧ Flushed x.ld.reals ∧
      Flushed x.eq.reals ∧ Flushed x.sc.reals ∧ Flushed x.co.reals ∧ Flushed x.os.reals := by
  simp only [ChanState.reals, PiSat.reals, Filters.reals, ControlComp.reals, LowDynamic.reals, Shelf.reals,
    Equaliser.reals, StyleComp.reals, Console.reals, OsSat.reals, flushed_append, flushed_cons, flushed_nil, and_assoc,
    true_and, List.cons_append]

theorem ChanState.sound_iff_parts {x : ChanState} {len : Nat} : x.Sound len ↔ x.PartsSound len := by
  constructor
  · rintro ⟨hpiT, hosT, hrng, hwarm, hin, hout, hreals⟩
    obtain ⟨hpi, hfl, hcc, hld, heq, hsc, hco, hos⟩ := x.flushed_reals_iff.mp hreals
    exact ⟨hpiT, hosT, hrng, hwarm, hin, hout, hpi, hfl, hcc, hld, heq, hsc, hco, hos⟩
  · intro h
    exact ⟨h.piTape, h.osTape, h.rng, h.warm, h.inpk, h.outpk,
      x.flushed_reals_iff.mpr ⟨h.pi, h.fl, h.cc, h.ld, h.eq, h.sc, h.co, h.os⟩⟩

/-! ### The generator never reaches 0 (R270) -/

/-- Only 0 is its own left shift. -/
theorem eq_zero_of_shiftLeft_eq {w k : Nat} {x : BitVec w} (hk : 0 < k) (h : x <<< k = x) : x = 0#w := by
  have iterate (n : Nat) : x <<< (n * k) = x := by
    induction n with
    | zero => simp
    | succ n ih => rw [Nat.succ_mul, BitVec.shiftLeft_add, ih, h]
  rw [← iterate w, BitVec.shiftLeft_eq_zero (Nat.le_mul_of_pos_right w hk)]

/-- Only 0 is its own right shift. -/
theorem eq_zero_of_ushiftRight_eq {w k : Nat} {x : BitVec w} (hk : 0 < k) (h : x >>> k = x) : x = 0#w := by
  have iterate (n : Nat) : x >>> (n * k) = x := by
    induction n with
    | zero => simp
    | succ n ih => rw [Nat.succ_mul, BitVec.shiftRight_add, ih, h]
  rw [← iterate w, BitVec.ushiftRight_eq_zero (Nat.le_mul_of_pos_right w hk)]

theorem xor_shiftLeft_ne_zero {w k : Nat} {x : BitVec w} (hk : 0 < k) (hx : x ≠ 0#w) : x ^^^ (x <<< k) ≠ 0#w :=
  fun h => hx (eq_zero_of_shiftLeft_eq hk (BitVec.xor_eq_zero_iff.mp h).symm)

theorem xor_ushiftRight_ne_zero {w k : Nat} {x : BitVec w} (hk : 0 < k) (hx : x ≠ 0#w) : x ^^^ (x >>> k) ≠ 0#w :=
  fun h => hx (eq_zero_of_ushiftRight_eq hk (BitVec.xor_eq_zero_iff.mp h).symm)

/-- Each of the three shifts of R270 keeps a word apart from 0. -/
theorem xorshift32_ne_zero {s : BitVec 32} (hs : s ≠ 0) : xorshift32 s ≠ 0 :=
  xor_shiftLeft_ne_zero (by decide) (xor_ushiftRight_ne_zero (by decide) (xor_shiftLeft_ne_zero (by decide) hs))

/-! ### The Tape saturators -/

/-- A Tape step keeps its saturator sound: one cell inside the line is written (R357), and the generator advances. -/
theorem Tape.Sound.tapeStep {t : Tape} {len : Nat} (h : t.Sound len) (cfg : Params) (sr ch x : F64) :
    (tapeStep cfg sr t ch x).1.Sound len := by
  obtain ⟨hwf, rfl, hw, hrng⟩ := h
  obtain ⟨⟨v, hline⟩, hw', hrng'⟩ := tapeStep_frame cfg sr t ch x
  refine ⟨?_, ?_, ?_, ?_⟩
  · rw [hline]; exact TapeLine.write_wf hwf hw _
  · rw [hline, TapeLine.write_len]
  · rw [hw']; exact Nat.mod_lt _ (Nat.zero_lt_of_lt hw)
  · rw [hrng']; exact xorshift32_ne_zero hrng

theorem satPi_tape_sound {st : PiSat} {len : Nat} (h : st.tape.Sound len) (e : Env) (x : F64) :
    (satPi e x st).1.tape.Sound len := by
  unfold satPi
  dsimp only
  split
  · exact h
  · exact h
  · exact h.tapeStep e.cfg e.sr _ x
  · exact h

theorem satOs_tape_sound {st : OsSat} {len : Nat} (h : st.tape.Sound len) (e : Env) (x : F64) :
    (satOs e x st).1.tape.Sound len := by
  unfold satOs
  dsimp only
  split
  · exact h
  · exact h
  · exact h.tapeStep e.cfg e.sr _ x
  · exact h
  · exact h
  · exact h

/-! ### The Console's generator and the warm-up counter -/

/-- The Console draws twice (R272) or not at all. -/
theorem cons_rng_ne_zero {st : Console} (h : st.rng ≠ 0) (e : Env) (x : F64) : (cons e x st).1.rng ≠ 0 := by
  unfold cons
  dsimp only
  split_ifs
  · exact h
  · exact h
  · have hrng : (adhp e.cfg e.sr (e.code .coProfile) x st).1.rng = st.rng := by
      unfold adhp
      dsimp only
      split_ifs <;> rfl
    have hpipe : (pipe e.cfg e.sr (e.code .coProfile) x st).1.rng = xorshift32 (xorshift32 st.rng) := by
      rw [← hrng]; rfl
    rw [hpipe]
    exact xorshift32_ne_zero (xorshift32_ne_zero h)

theorem warmTick_le {n : Nat} (h : n ≤ ldWarmupN) : warmTick n ≤ ldWarmupN := by
  unfold warmTick
  split
  · omega
  · exact h

theorem ldyn_warm (e : Env) (x : F64) (st : LowDynamic) : (ldyn e x st).1.warm = warmTick st.warm := by
  unfold ldyn
  dsimp only
  split <;> rfl

/-- The real values a Tape step stores besides its cell, which `tapeStep_frame` gives. -/
theorem tapeStep_stored (cfg : Params) (sr : F64) (t : Tape) (ch x : F64) :
    (∃ v, (tapeStep cfg sr t ch x).1.phase = dnz cfg.denormMode v) ∧
    (∃ b q v, (tapeStep cfg sr t ch x).1.bump = (biq cfg.denormMode b q v).1) ∧
    ∃ v, (tapeStep cfg sr t ch x).1.bias = dnz cfg.denormMode v :=
  ⟨⟨_, rfl⟩, ⟨_, _, _, rfl⟩, ⟨_, rfl⟩⟩

/-! ### What each stage stores

`hm` is the machine's DENORM_MODE: flush to zero. -/

section Stages
variable {e : Env} (hm : e.cfg.denormMode = .ftz)
include hm

theorem dnz_flushed (x : F64) : (dnz e.cfg.denormMode x).isSubnormal = false := by
  rw [hm]; exact dnz_ftz_isSubnormal x

theorem biq_flushed (b : Biquad) (q : Coeffs) (x : F64) : Flushed (biq e.cfg.denormMode b q x).1.reals := by
  simp only [Biquad.reals, biq, dnz_flushed hm, flushed_cons, flushed_nil, and_self]

theorem tapeStep_flushed {t : Tape} (h : Flushed t.reals) (ch x : F64) :
    Flushed (tapeStep e.cfg e.sr t ch x).1.reals := by
  obtain ⟨⟨v, hline⟩, -, -⟩ := tapeStep_frame e.cfg e.sr t ch x
  obtain ⟨⟨p, hphase⟩, ⟨b, q, y, hbump⟩, u, hbias⟩ := tapeStep_stored e.cfg e.sr t ch x
  simp only [Tape.reals, flushed_cons] at h ⊢
  obtain ⟨-, -, -, -, hcells⟩ := h
  rw [hphase, hbump, hbias, hline]
  refine ⟨dnz_flushed hm _, dnz_flushed hm _, dnz_flushed hm _, dnz_flushed hm _, ?cells⟩
  case cells =>
    intro w hw
    obtain ⟨q, hq, rfl⟩ := List.mem_map.mp hw
    rcases TapeLine.mem_write hq with hq | rfl
    · exact hcells _ (List.mem_map_of_mem hq)
    · exact dnz_flushed hm v

theorem satPi_flushed {st : PiSat} (h : Flushed st.reals) (x : F64) : Flushed (satPi e x st).1.reals := by
  simp only [PiSat.reals, flushed_cons] at h ⊢
  obtain ⟨hpure, htube, htape⟩ := h
  unfold satPi
  dsimp only
  split
  · exact ⟨hpure, htube, htape⟩
  · exact ⟨dnz_flushed hm _, htube, htape⟩
  · exact ⟨hpure, htube, tapeStep_flushed hm htape _ x⟩
  · exact ⟨hpure, dnz_flushed hm _, htape⟩

theorem satOs_flushed {st : OsSat} (h : Flushed st.reals) (x : F64) : Flushed (satOs e x st).1.reals := by
  simp only [OsSat.reals, flushed_cons] at h ⊢
  obtain ⟨hpure, htube, hsoft, htape⟩ := h
  unfold satOs
  dsimp only
  split
  · exact ⟨hpure, htube, hsoft, htape⟩
  · exact ⟨dnz_flushed hm _, htube, hsoft, htape⟩
  · exact ⟨hpure, htube, hsoft, tapeStep_flushed hm htape _ x⟩
  · exact ⟨hpure, dnz_flushed hm _, hsoft, htape⟩
  · exact ⟨hpure, htube, hsoft, htape⟩
  · exact ⟨hpure, htube, dnz_flushed hm _, htape⟩

/-- A filter runs its first section, and holds the second or runs it too (R405-R407). -/
theorem cascade_flushed {b : Biquad} (h : Flushed b.reals) (two : Bool) (q : Coeffs) (x : F64) (a : Biquad) :
    Flushed (cascade e.cfg.denormMode two q x a b).1.1.reals ∧
    Flushed (cascade e.cfg.denormMode two q x a b).1.2.reals := by
  unfold cascade
  dsimp only
  split
  · exact ⟨biq_flushed hm _ _ _, biq_flushed hm _ _ _⟩
  · exact ⟨biq_flushed hm _ _ _, h⟩

theorem filt_flushed {st : Filters} (h : Flushed st.reals) (x : F64) : Flushed (filt e x st).1.reals := by
  simp only [Filters.reals, flushed_append] at h ⊢
  obtain ⟨⟨⟨-, hhpf⟩, -⟩, hlpf⟩ := h
  obtain ⟨hh0, hh1⟩ := cascade_flushed hm hhpf (e.code .hpfSlope == 1) (hpfCoeffs e) x st.hpf0
  obtain ⟨hl0, hl1⟩ := cascade_flushed hm hlpf (e.code .lpfSlope == 1) (lpfCoeffs e) _ st.lpf0
  exact ⟨⟨⟨hh0, hh1⟩, hl0⟩, hl1⟩

theorem ccomp_flushed (st : ControlComp) (x : F64) : Flushed (ccomp e x st).1.reals := by
  simp only [ControlComp.reals, ccomp, dnz_flushed hm, flushed_cons, flushed_nil, and_self]

theorem ldyn_flushed (st : LowDynamic) (x : F64) : Flushed (ldyn e x st).1.reals := by
  unfold ldyn
  dsimp only
  split
  · simp only [LowDynamic.reals, msStep, dnz_flushed hm, c0_isSubnormal, flushed_cons, flushed_nil, and_self]
  · simp only [LowDynamic.reals, msStep, ldBallistics, dnz_flushed hm, flushed_cons, flushed_nil, and_self]

/-- A shelf runs one bank and holds the other (R492). -/
theorem shelfStep_flushed {st : Shelf} (h : Flushed st.reals) (q : Coeffs) (x : F64) :
    Flushed (shelfStep e.cfg.denormMode q x st).1.reals := by
  simp only [Shelf.reals, flushed_append] at h ⊢
  obtain ⟨hA, hB⟩ := h
  unfold shelfStep
  dsimp only
  split
  · exact ⟨hA, biq_flushed hm _ _ _⟩
  · exact ⟨biq_flushed hm _ _ _, hB⟩

theorem eqStep_flushed {st : Equaliser} (h : Flushed st.reals) (x : F64) : Flushed (eqStep e x st).1.reals := by
  simp only [Equaliser.reals, flushed_append] at h ⊢
  obtain ⟨⟨⟨hbass, htreb⟩, -⟩, -⟩ := h
  exact ⟨⟨⟨shelfStep_flushed hm hbass _ _, shelfStep_flushed hm htreb _ _⟩, biq_flushed hm _ _ _⟩, biq_flushed hm _ _ _⟩

/-- Only the selected compressor runs (R530). -/
theorem scomp_flushed {st : StyleComp} (h : Flushed st.reals) (x : F64) : Flushed (scomp e x st).1.reals := by
  simp only [StyleComp.reals, flushed_cons] at h ⊢
  obtain ⟨he1, he2, hwarm, henv, hpunch, hnil⟩ := h
  unfold scomp
  dsimp only
  split
  · exact ⟨dnz_flushed hm _, dnz_flushed hm _, dnz_flushed hm _, henv, hpunch, hnil⟩
  · exact ⟨he1, he2, hwarm, dnz_flushed hm _, dnz_flushed hm _, hnil⟩

theorem adhp_flushed {st : Console} (h : Flushed st.reals) (p : Nat) (x : F64) :
    Flushed (adhp e.cfg e.sr p x st).1.reals := by
  simp only [Console.reals, flushed_cons] at h ⊢
  obtain ⟨hpure, hA, hB, h1, h2, hnil⟩ := h
  unfold adhp
  dsimp only
  split
  · exact ⟨hpure, hA, dnz_flushed hm _, h1, h2, hnil⟩
  · exact ⟨hpure, dnz_flushed hm _, hB, h1, h2, hnil⟩

theorem slew_flushed {st : Console} (h : Flushed st.reals) (p : Nat) (y : F64) :
    Flushed (slew e.cfg e.sr p y st).1.reals := by
  simp only [Console.reals, flushed_cons] at h ⊢
  obtain ⟨hpure, hA, hB, h1, -, hnil⟩ := h
  exact ⟨hpure, hA, hB, dnz_flushed hm _, h1, hnil⟩

theorem cons_flushed {st : Console} (h : Flushed st.reals) (x : F64) : Flushed (cons e x st).1.reals := by
  unfold cons
  dsimp only
  split_ifs
  · exact h
  · simp only [Console.reals, flushed_cons] at h ⊢
    exact ⟨dnz_flushed hm _, h.2⟩
  · exact slew_flushed hm (adhp_flushed hm h _ x) _ _

/-! ### The chain keeps a channel sound -/

theorem kernel_partsSound {s : ChanState} {len : Nat} (h : s.PartsSound len) (k : Stage) (x : F64) :
    (kernel e k s x).1.PartsSound len := by
  have hin : isMagnitude (kernel e k s x).1.m.inpk = true := by rw [kernel_inpk]; exact h.inpk
  have hout : isMagnitude (kernel e k s x).1.m.outpk = true := by rw [kernel_outpk]; exact h.outpk
  cases k <;> dsimp only [kernel] at hin hout ⊢
  case pi => exact { h with piTape := satPi_tape_sound h.piTape e x, pi := satPi_flushed hm h.pi x }
  case fl => exact { h with fl := filt_flushed hm h.fl x }
  case cc => exact { h with inpk := hin, outpk := hout, cc := ccomp_flushed hm s.cc x }
  case ld =>
    have hld := ldyn_flushed hm s.ld x
    have hwarm : (ldyn e x s.ld).1.warm ≤ ldWarmupN := by rw [ldyn_warm]; exact warmTick_le h.warm
    generalize ldyn e x s.ld = r at hld hwarm hin hout ⊢
    exact { h with inpk := hin, outpk := hout, ld := hld, warm := hwarm }
  case eq => exact { h with eq := eqStep_flushed hm h.eq x }
  case sc =>
    have hsc := scomp_flushed hm h.sc x
    generalize scomp e x s.sc = r at hsc hin hout ⊢
    exact { h with inpk := hin, outpk := hout, sc := hsc }
  case co => exact { h with co := cons_flushed hm h.co x, rng := cons_rng_ne_zero h.rng e x }
  case os => exact { h with osTape := satOs_tape_sound h.osTape e x, os := satOs_flushed hm h.os x }
  case ov => exact h

theorem wrap_partsSound {s : ChanState} {len : Nat} (h : s.PartsSound len) (k : Stage) (x : F64) :
    (wrap e k s x).1.PartsSound len :=
  { kernel_partsSound hm h k (dnz e.cfg.denormMode x) with }

end Stages

/-- A peak raised to a magnitude is a magnitude; a NaN does not raise it (R64). -/
theorem isMagnitude_max_abs {p : F64} (h : isMagnitude p = true) (x : F64) : isMagnitude (F64.max p x.abs) = true := by
  unfold F64.max
  split
  · next hlt =>
    cases x with
    | nan => rw [F64.abs, F64.lt_nan] at hlt; cases hlt
    | inf s => rfl
    | fin s e f => rfl
  · exact h

theorem ChanState.Sound.chain {s : ChanState} {len : Nat} (h : s.Sound len) {e : Env}
    (hm : e.cfg.denormMode = .ftz) (x : F64) : (chain e s x).1.Sound len := by
  rw [ChanState.sound_iff_parts] at h ⊢
  have hin : (s.meterIn x).PartsSound len := { h with inpk := isMagnitude_max_abs h.inpk x }
  have hrun := runStages_induct e (motive := fun t => t.PartsSound len)
    (fun k _ y ht => wrap_partsSound hm ht k y) chainOrder (s.meterIn x) x hin
  have hinpk : isMagnitude (Machine.chain e s x).1.m.inpk = true := by
    rw [chain_inpk]; exact isMagnitude_max_abs h.inpk x
  have hout : isMagnitude (Machine.chain e s x).1.m.outpk = true := by
    rw [chain_outpk]; exact isMagnitude_max_abs h.outpk _
  unfold Machine.chain ChanState.meterOut at hinpk hout ⊢
  generalize runStages e chainOrder (s.meterIn x) x = r at hrun hinpk hout ⊢
  exact { hrun with inpk := hinpk, outpk := hout }

end Sys2Proof.Machine
end

section
/-! The invariant of the state, and that every step keeps it: the proof of O3. -/

namespace Sys2Proof.Machine

open Config

/-! ### Rates (R43, R205) -/

/-- A signed number of units is positive when the sign bit is clear and it is not zero. -/
theorem signed_pos_iff {s : Bool} {u : Nat} : 0 < F64.signed s u ↔ s = false ∧ u ≠ 0 := by
  cases s with
  | false => simp only [F64.signed, Bool.false_eq_true, if_false, true_and]; omega
  | true => simp only [F64.signed, if_true, Bool.true_eq_false, false_and, iff_false]; omega

/-- An accepted rate is a positive finite real. -/
theorem fin_of_rateAccepted {r : F64} (h : rateAccepted r = true) :
    ∃ x f, r = .fin false x f ∧ F64.units x f ≠ 0 := by
  simp only [rateAccepted, Bool.and_eq_true, Bool.not_eq_true', beq_eq_false_iff_ne, c0, F64.lt_iff, F64.rank_zero,
    Option.some.injEq, ↓existsAndEq, true_and] at h
  obtain ⟨⟨j, hrank, hpos⟩, hinf⟩ := h
  cases r with
  | nan => cases hrank
  | inf s =>
    rw [F64.rank, Option.some.injEq] at hrank
    obtain ⟨rfl, -⟩ := signed_pos_iff.mp (hrank ▸ hpos)
    exact absurd rfl hinf
  | fin s x f =>
    rw [F64.rank, Option.some.injEq] at hrank
    obtain ⟨rfl, hu⟩ := signed_pos_iff.mp (hrank ▸ hpos)
    exact ⟨x, f, rfl, hu⟩

/-- Two accepted rates that compare equal are the same real (R205: only a zero has two). -/
theorem eq_of_feq_of_rateAccepted {a b : F64} (ha : rateAccepted a = true) (hb : rateAccepted b = true)
    (h : a.feq b = true) : a = b := by
  obtain ⟨x, f, rfl, -⟩ := fin_of_rateAccepted ha
  obtain ⟨y, g, rfl, -⟩ := fin_of_rateAccepted hb
  have hu : F64.units x f = F64.units y g := by
    simpa only [F64.feq, F64.rank, F64.signed, Bool.false_eq_true, if_false, decide_eq_true_eq, Nat.cast_inj] using h
  rw [← F64.round_units false x f Nat.one_pos, hu, F64.round_units false y g Nat.one_pos]

/-- With a rate in force, SETSR of the same rate leaves the lengths of the delay lines (R61). -/
theorem State.RateLegal.real_eq {s : State} {d : Word} (h : s.RateLegal) (hd : rateAccepted (real d) = true)
    (hc : rateChanged s (real d) = false) : real d = real s.sr := by
  simp only [rateChanged, Bool.or_eq_false_iff, Bool.not_eq_false'] at hc
  obtain ⟨hconf, hfeq⟩ := hc
  rw [State.RateLegal, if_pos hconf] at h
  exact eq_of_feq_of_rateAccepted hd h hfeq

/-! ### Registers -/

theorem ParamBank.Legal.set {b : ParamBank} (h : b.Legal) {r : PReg} {d : Word} (hd : r.kind.accepts d = true) :
    (b.set r d).Legal := by
  intro r'
  by_cases hr : r' = r
  · subst hr; rw [ParamBank.get_set_self]; exact hd
  · rw [ParamBank.get_set_of_ne b hr]; exact h r'

theorem OfsBank.Legal.set {b : OfsBank} (h : b.Legal) {d : Word} (hd : Kind.offset.accepts d = true) (r : OReg) :
    (b.set r d).Legal := by
  intro r'
  by_cases hr : r' = r
  · subst hr; rw [OfsBank.get_set_self]; exact hd
  · rw [OfsBank.get_set_of_ne b hr]; exact h r'

theorem ParamBank.reset_legal : ParamBank.reset.Legal := by
  intro r
  cases r <;> rfl

theorem OfsBank.reset_legal : OfsBank.reset.Legal := by
  intro r
  cases r <;> rfl

/-! ### Channels -/

theorem tape_reset_sound {len : Nat} (hlen : 0 < len) (phase : F64) {seed : BitVec 32} (hseed : seed ≠ 0) :
    (Tape.reset len phase seed).Sound len :=
  ⟨TapeLine.clear_wf len, rfl, hlen, hseed⟩

theorem tape_reset_flushed (len : Nat) {phase : F64} (hphase : phase.isSubnormal = false) (seed : BitVec 32) :
    Flushed (Tape.reset len phase seed).reals := by
  simp only [Tape.reals, Tape.reset, TapeLine.clear, Biquad.reset, List.map_nil, c0_isSubnormal, hphase, flushed_cons,
    flushed_nil, and_self]

/-- 8.0 is a power of two: nothing is rounded. -/
theorem ofNat_eight : F64.ofNat 8 = .fin false 1026 0 := by
  have hexp : ((1026 : Fin 2047) : Nat) = 1025 + 1 := rfl
  have hfrac : (0 : BitVec 52).toNat = 0 := rfl
  have hunits : F64.units 1026 0 * 1 = 8 * 2 ^ 1074 := by
    rw [F64.units, hexp, if_neg (Nat.succ_ne_zero 1025), hfrac, Nat.add_zero, Nat.mul_one, Nat.add_sub_cancel,
      show 8 = 2 ^ 3 from rfl, ← pow_add, ← pow_add]
  rw [F64.ofNat, ← hunits, F64.round_units false 1026 0 Nat.one_pos]

theorem tapePhase0_isSubnormal (c : Chan) : (tapePhase0 params c).isSubnormal = false := by
  cases c with
  | L => rfl
  | R =>
    simp only [tapePhase0, params, defaults, ofNat_eight]
    rfl

theorem seeds_ne_zero (c : Chan) : tapeSeedPi params c ≠ 0 ∧ tapeSeedOs params c ≠ 0 ∧ coSeed params c ≠ 0 := by
  cases c <;> decide

/-- A reset channel is sound (R60). -/
theorem ChanState.reset_sound (c : Chan) {len : Nat} (hlen : 0 < len) (mix : Mixes) (epoch : Nat) :
    (ChanState.reset params c len mix epoch).Sound len := by
  obtain ⟨hpi, hos, hco⟩ := seeds_ne_zero c
  have htape (seed : BitVec 32) := tape_reset_flushed len (tapePhase0_isSubnormal c) seed
  rw [ChanState.sound_iff_parts]
  constructor
  case piTape => exact tape_reset_sound hlen _ hpi
  case osTape => exact tape_reset_sound hlen _ hos
  case rng => exact hco
  case warm => exact Nat.zero_le _
  case inpk => rfl
  case outpk => rfl
  all_goals
    simp only [ChanState.reset, PiSat.reals, Filters.reals, ControlComp.reals, LowDynamic.reals, Shelf.reals,
      Equaliser.reals, StyleComp.reals, Console.reals, OsSat.reals, Shelf.reset, Biquad.reset, Biquad.reals, htape,
      c0_isSubnormal, c1_isSubnormal, flushed_append, flushed_cons, flushed_nil, and_self]

/-- BLOCK clears the peaks only (R207). -/
theorem ChanState.Sound.clearPeaks {x : ChanState} {len : Nat} (h : x.Sound len) : x.clearPeaks.Sound len := by
  rw [ChanState.sound_iff_parts] at h ⊢
  exact { h with inpk := rfl, outpk := rfl }

/-- The sample count is the model's own and no part of a channel's soundness. -/
theorem ChanState.Sound.withEpoch {x : ChanState} {len : Nat} (h : x.Sound len) (n : Nat) :
    ({ x with epoch := n } : ChanState).Sound len := h

/-! ### The state -/

/-- After an accepted SETSR the rate is legal (R205). -/
theorem State.rateLegal_of_accepted (s : State) {d : Word} (hd : rateAccepted (real d) = true) :
    ({ s with sr := d, configured := true } : State).RateLegal := by
  rw [State.RateLegal, if_pos rfl]
  exact hd

theorem State.Inv.chan {s : State} (h : s.Inv) (c : Chan) : (s.chan c).Sound (tapeBuf params (real s.sr)) := by
  obtain ⟨-, -, -, hL, hR, -⟩ := h
  cases c
  · exact hL
  · exact hR

/-- The response is no part of the invariant. -/
theorem State.Inv.ok {s : State} (h : s.Inv) (rd : Word) : (s.ok rd).Inv := h

theorem State.Inv.withPort {s : State} (h : s.Inv) (rest : List Event) : (s.withPort rest).Inv := h

theorem State.Inv.accept {s : State} (h : s.Inv) (rest : List Event) : (s.accept rest).Inv := by
  obtain ⟨hregs, hrate, herr, hL, hR, hmeter⟩ := h
  exact ⟨hregs, hrate, herr, hL, hR, fun idx => Nat.le_succ_of_le (hmeter idx)⟩

/-- ERRCMD gets a command word, zero-extended (R705). -/
theorem State.Inv.raise {s : State} (h : s.Inv) (e : CmdError) (cw : CmdWord) : (s.raise e cw).Inv := by
  obtain ⟨hregs, hrate, -, hL, hR, hmeter⟩ := h
  refine ⟨hregs, hrate, ?_, hL, hR, hmeter⟩
  rw [State.raise_errCmd, BitVec.toNat_setWidth_of_le (by decide)]
  exact cw.isLt

theorem State.Inv.meterRead {s : State} (h : s.Inv) (idx : BitVec 6) : (s.meterRead idx).Inv := by
  obtain ⟨hregs, hrate, herr, hL, hR, hmeter⟩ := h
  exact ⟨hregs, hrate, herr, hL, hR, hmeter.meterReadWith meterLag idx⟩

theorem State.Inv.setParam {s : State} (h : s.Inv) {r : PReg} {d : Word} (hd : r.kind.accepts d = true) :
    (s.setParam r d).Inv := by
  obtain ⟨⟨hshadow, hregs⟩, hrest⟩ := h
  exact ⟨⟨hshadow.set hd, hregs⟩, hrest⟩

theorem State.Inv.setOfs {s : State} (h : s.Inv) {d : Word} (hd : Kind.offset.accepts d = true) (c : Chan) (r : OReg) :
    (s.setOfs c r d).Inv := by
  obtain ⟨⟨hshadow, hofsL, hofsR, hact⟩, hrest⟩ := h
  cases c with
  | L => exact ⟨⟨hshadow, hofsL.set hd r, hofsR, hact⟩, hrest⟩
  | R => exact ⟨⟨hshadow, hofsL, hofsR.set hd r, hact⟩, hrest⟩

theorem State.Inv.clearStatus {s : State} (h : s.Inv) (d : Word) : (s.clearStatus d).Inv := h

theorem State.Inv.latch {s : State} (h : s.Inv) : s.latch.Inv := by
  obtain ⟨⟨hshadow, hofsL, hofsR, -⟩, hrate, herr, hL, hR, hmeter⟩ := h
  exact ⟨⟨hshadow, hofsL, hofsR, hshadow, hofsL, hofsR⟩, hrate, herr, hL.clearPeaks, hR.clearPeaks, hmeter⟩

theorem State.Inv.setChan {s : State} (h : s.Inv) {x : ChanState} (hx : x.Sound (tapeBuf params (real s.sr)))
    (c : Chan) : (s.setChan c x).Inv := by
  obtain ⟨hregs, hrate, herr, hL, hR, hmeter⟩ := h
  cases c with
  | L => exact ⟨hregs, hrate, herr, hx, hR, hmeter⟩
  | R => exact ⟨hregs, hrate, herr, hL, hx, hmeter⟩

theorem State.Inv.sampleWith {s : State} (h : s.Inv) (c : Chan) (x : F64) : (sampleWith params c x s).Inv := by
  rw [sampleWith_eq]
  have hch : (chain (s.env params c) (s.chan c) x).1.Sound (tapeBuf params (real s.sr)) := (h.chan c).chain rfl x
  exact (h.setChan (hch.withEpoch _) c).ok _

/-- Freshly reset channels are sound whatever they held before, at any legal rate. -/
theorem State.resetChannels_inv {s : State} (hregs : s.RegsLegal) (hrate : s.RateLegal) (herr : s.errCmd.toNat < 2 ^ 32)
    (hmeter : s.MeterSound) : (s.resetChannels params).Inv := by
  have hlen : 0 < tapeBuf params (real s.sr) := Nat.zero_lt_of_lt (two_le_tapeBuf params (real s.sr))
  exact ⟨hregs, hrate, herr, ChanState.reset_sound .L hlen _ _, ChanState.reset_sound .R hlen _ _, hmeter⟩

/-- Power-on reset gives a state that meets the invariant (R740). -/
theorem State.restart_inv (s : State) (rest : List Event) : (s.restart rest).Inv := by
  have hsr : (s.restart rest).sr = 0 := rfl
  have hzero : real 0 = c0 := by decide
  have hlen : 0 < tapeBuf params c0 := Nat.zero_lt_of_lt (two_le_tapeBuf params c0)
  refine ⟨?regs, ?rate, ?err, ?left, ?right, ?meter⟩
  case regs =>
    exact ⟨ParamBank.reset_legal, OfsBank.reset_legal, OfsBank.reset_legal, ParamBank.reset_legal,
      OfsBank.reset_legal, OfsBank.reset_legal⟩
  case rate => exact rfl
  case err => exact Nat.two_pow_pos 32
  case left => rw [hsr, hzero]; exact ChanState.reset_sound .L hlen _ _
  case right => rw [hsr, hzero]; exact ChanState.reset_sound .R hlen _ _
  case meter =>
    intro idx
    simp [State.restart, State.powerOn]

/-! ### Commands and steps -/

/-- Every command keeps the invariant. -/
theorem CommandEffect.inv {i : Instr} {s t : State} (h : CommandEffect s i t) (hs : s.Inv) : t.Inv := by
  have ⟨hregs, hrate, herr, hL, hR, hmeter⟩ := hs
  cases h with
  | raised i e => exact hs.raise e _
  | nop => exact hs.ok 0
  | read => exact hs.ok _
  | wroteParam hn hd => exact (hs.setParam hd).ok 0
  | wroteOfs hn hd => exact (hs.setOfs hd _ _).ok 0
  | wroteStatus hn => exact (hs.clearStatus _).ok 0
  | @rateSet d hd hc =>
    exact (State.resetChannels_inv (s := { s with sr := d, configured := true }) hregs (s.rateLegal_of_accepted hd) herr
      hmeter).ok 0
  | @rateKept d hd hc =>
    have hlen := hrate.real_eq hd hc
    refine State.Inv.ok (s := { s with sr := d, configured := true })
      ⟨hregs, s.rateLegal_of_accepted hd, herr, ?_, ?_, hmeter⟩ 0
    · show s.chL.Sound (tapeBuf params (real d))
      rw [hlen]; exact hL
    · show s.chR.Sound (tapeBuf params (real d))
      rw [hlen]; exact hR
  | channelsReset => exact (State.resetChannels_inv hregs hrate herr hmeter).ok 0
  | latched => exact hs.latch.ok 0
  | sampled hch hconf => exact hs.sampleWith _ _

/-- Settles O3, by the event that the step takes off the port. -/
theorem stepKeepsInvariant : Obligations.StepKeepsInvariant := by
  intro s t hs hstep
  unfold step at hstep
  split at hstep
  · cases hstep; exact hs
  · cases hstep; exact s.restart_inv _
  · cases hstep; exact (hs.withPort _).meterRead _
  · split at hstep
    · exact (commandEffect_of_exec hstep).inv (hs.accept _)
    · cases hstep; exact (hs.accept _).raise _ _

end Sys2Proof.Machine
end

section
/-! STATUS and CONFIGURED (R44, R63): the proofs of O15 and O17. -/

namespace Sys2Proof.Machine

/-! ### The bits of STATUS -/

/-- STATUS as read, bit by bit (R63). -/
theorem statusWord_getLsbD (errs : BitVec 5) (configured : Bool) (n : Nat) :
    (statusWord errs configured).getLsbD n =
      if n = 0 then configured else if n ≤ 5 then errs.getLsbD (n - 1) else false := by
  unfold statusWord
  rw [BitVec.getLsbD_append, BitVec.getLsbD_append]
  by_cases h0 : n = 0
  · subst h0; simp
  · by_cases h5 : n ≤ 5
    · simp [h0, h5, show n < 5 + 1 by omega]
    · simp [h0, h5, show ¬ n < 5 + 1 by omega]

theorem State.status_getLsbD (s : State) (n : Nat) : (s.regRead (.stat .status)).getLsbD n =
    if n = 0 then s.configured else if n ≤ 5 then s.errs.getLsbD (n - 1) else false :=
  statusWord_getLsbD s.errs s.configured n

/-- An error's bit within STATUS[5:1] is the one its cause code gives. -/
theorem setError_getLsbD_self (errs : BitVec 5) (e : CmdError) : (setError errs e).getLsbD (e.code - 1) = true := by
  have hbit : e.bit.getLsbD (e.code - 1) = true := by cases e <;> decide
  rw [setError, BitVec.getLsbD_or, hbit, Bool.or_true]

/-- An error clears no bit (R705). -/
theorem setError_getLsbD_of_set {errs : BitVec 5} {k : Nat} (h : errs.getLsbD k = true) (e : CmdError) :
    (setError errs e).getLsbD k = true := by
  rw [setError, BitVec.getLsbD_or, h, Bool.true_or]

theorem clearErrors_getLsbD (errs : BitVec 5) (v : Word) {k : Nat} (hk : k < 5) :
    (clearErrors errs v).getLsbD k = (errs.getLsbD k && !v.getLsbD (k + 1)) := by
  simp [clearErrors, hk, Nat.add_comm]

/-- An error shows in STATUS at the bit of its cause code (R700-R704). -/
theorem State.raise_status_getLsbD (s : State) (e : CmdError) (cw : CmdWord) :
    ((s.raise e cw).regRead (.stat .status)).getLsbD e.code = true := by
  have hcode : e.code ≠ 0 ∧ e.code ≤ 5 := by cases e <;> decide
  rw [State.status_getLsbD, if_neg hcode.1, if_pos hcode.2, State.raise_errs]
  exact setError_getLsbD_self s.errs e

/-- Only a WRREG to STATUS clears an error bit, and only where it writes a 1 (R63). -/
theorem CommandEffect.wrreg_of_errs_cleared {i : Instr} {s t : State} {k : Nat} (h : CommandEffect s i t)
    (hs : s.errs.getLsbD k = true) (ht : t.errs.getLsbD k = false) :
    ∃ v, i = .wrreg 3 0x01 v ∧ v.getLsbD (k + 1) = true := by
  have hkept : ¬ t.errs = s.errs := fun e => by rw [e, hs] at ht; cases ht
  cases h with
  | raised i e =>
    rw [State.raise_errs, setError_getLsbD_of_set hs] at ht
    cases ht
  | @wroteStatus b x v hn =>
    obtain ⟨rfl, rfl⟩ := regName_eq_some hn
    have hk : k < 5 := BitVec.lt_of_getLsbD hs
    rw [State.ok_errs, State.clearStatus_errs, clearErrors_getLsbD _ _ hk, hs] at ht
    exact ⟨v, rfl, by simpa using ht⟩
  | sampled => exact absurd (by simp [sampleWith_eq]) hkept
  | nop | read | wroteParam | wroteOfs | rateSet | rateKept | channelsReset | latched => exact absurd (by simp) hkept

/-- Settles O15. -/
theorem statusRegister : Obligations.StatusRegister := by
  refine ⟨State.status_getLsbD, ?errors, ?sticky, ?write, by decide⟩
  case errors =>
    intro s cw
    exact ⟨s.raise_status_getLsbD .badCmd cw, s.raise_status_getLsbD .badReg cw, s.raise_status_getLsbD .badVal cw,
      s.raise_status_getLsbD .srRej cw, s.raise_status_getLsbD .notCfg cw⟩
  case sticky => exact fun _ _ _ _ h hs ht => (commandEffect_of_exec h).wrreg_of_errs_cleared hs ht
  case write => exact fun s v => ⟨clearErrors s.errs v, rfl, fun _ hk => clearErrors_getLsbD s.errs v hk⟩

/-! ### CONFIGURED -/

/-- Only SETSR writes CONFIGURED, and only to 1 (R44). -/
theorem CommandEffect.configured_iff {i : Instr} {s t : State} (h : CommandEffect s i t) :
    t.configured = true ↔ s.configured = true ∨ ∃ d, i = .setsr d ∧ t.resp = some ⟨.ok, 0⟩ := by
  cases h with
  | raised i e => simp
  | rateSet hd hc => exact iff_of_true rfl (.inr ⟨_, rfl, rfl⟩)
  | rateKept hd hc => exact iff_of_true rfl (.inr ⟨_, rfl, rfl⟩)
  | nop | read | wroteParam | wroteOfs | wroteStatus | channelsReset | latched => simp
  | sampled => simp [sampleWith_eq]

/-- Settles O17. -/
theorem configuredBit : Obligations.ConfiguredBit := by
  refine ⟨fun _ _ _ h => (commandEffect_of_exec h).configured_iff, rfl, ?powerOn, fun s => s.status_getLsbD 0⟩
  case powerOn =>
    intro s rest hport
    exact ⟨s.restart rest, by simp only [step, hport], rfl⟩

end Sys2Proof.Machine
end

section
/-! Registers: which values they accept, what a read returns and leaves alone, and the effective parameters.  The proofs
of O20, O26, O27 and O33. -/

namespace Sys2Proof

/-! ### Patterns of a NaN and of a finite real (R15) -/

/-- The exponent field of a finite real is any but the last. -/
theorem expo_lt_iff (e : BitVec 11) : e.toNat < 2047 ↔ e ≠ 0x7FF := by
  rw [ne_eq, ← BitVec.toNat_inj]
  have := e.isLt
  have hlast : (0x7FF : BitVec 11).toNat = 2047 := rfl
  omega

theorem real_isFinite_iff (u : Word) : (real u).isFinite = true ↔ u.extractLsb' 52 11 ≠ 0x7FF := by
  rw [← expo_lt_iff]
  unfold real
  split_ifs with hexp hfrac
  · exact iff_of_true rfl hexp
  · exact iff_of_false Bool.false_ne_true hexp
  · exact iff_of_false Bool.false_ne_true hexp

theorem real_isNaN_iff (u : Word) :
    (real u).isNaN = true ↔ u.extractLsb' 52 11 = 0x7FF ∧ u.extractLsb' 0 52 ≠ 0 := by
  have hexp := expo_lt_iff (u.extractLsb' 52 11)
  unfold real
  split_ifs with hlt hfrac
  · exact iff_of_false Bool.false_ne_true fun h => hexp.mp hlt h.1
  · exact iff_of_false Bool.false_ne_true fun h => h.2 hfrac
  · exact iff_of_true rfl ⟨by_contra fun h => hlt (hexp.mpr h), hfrac⟩

namespace Machine

/-- Settles O20. -/
theorem kindsOfRegisters : Obligations.KindsOfRegisters := by
  intro d
  refine ⟨?flag, fun n => decide_eq_true_iff, ?param, real_isFinite_iff d⟩
  case flag =>
    have h0 : (0 : Word).toNat = 0 := rfl
    have h1 : (1 : Word).toNat = 1 := rfl
    simp only [Kind.accepts, decide_eq_true_eq, ← BitVec.toNat_inj, h0, h1]
    omega
  case param =>
    rw [← real_isNaN_iff]
    simp [Kind.accepts]

/-! ### Reads (R54) -/

/-- Settles O26. -/
theorem readsChangeNothing : Obligations.ReadsChangeNothing := by
  intro b i s
  refine ⟨fun h => ?_, fun h => execRdreg_of_reserved s h⟩
  obtain ⟨n, hn⟩ := Option.isSome_iff_exists.mp h
  exact ⟨s.regRead n, execRdreg_of_exists s hn⟩

/-! ### The value last written (R55) -/

/-- A register of banks 0 to 2 is read from the shadow registers and the offsets alone. -/
theorem State.regRead_congr {s t : State} {n : RegName} (hn : n.bank ≠ 3) (hshadow : t.shadow = s.shadow)
    (hL : t.ofsL = s.ofsL) (hR : t.ofsR = s.ofsR) : t.regRead n = s.regRead n := by
  cases n with
  | param r => simp only [State.regRead, hshadow]
  | ofs c r => cases c <;> simp only [State.regRead, State.ofs, hL, hR]
  | stat r => exact absurd rfl hn

theorem State.setParam_regRead_of_ne (s : State) {n : RegName} {r : PReg} (hbank : n.bank ≠ 3) (hn : n ≠ .param r)
    (d : Word) : (s.setParam r d).regRead n = s.regRead n := by
  cases n with
  | param r' => exact ParamBank.get_set_of_ne _ (fun h => hn (congrArg _ h)) d
  | ofs c r' => cases c <;> rfl
  | stat r' => exact absurd rfl hbank

theorem State.setOfs_regRead_of_ne (s : State) {n : RegName} {c : Chan} {r : OReg} (hbank : n.bank ≠ 3)
    (hn : n ≠ .ofs c r) (d : Word) : (s.setOfs c r d).regRead n = s.regRead n := by
  cases n with
  | param r' => simp only [State.regRead, State.setOfs_shadow]
  | ofs c' r' =>
    by_cases hc : c' = c
    · subst hc
      simp only [State.regRead, State.setOfs_ofs]
      exact OfsBank.get_set_of_ne _ (fun h => hn (congrArg _ h)) d
    · simp only [State.regRead, State.setOfs_ofs_of_ne s hc]
  | stat r' => exact absurd rfl hbank

/-- A command that is no WRREG of the register leaves it as it was. -/
theorem CommandEffect.regRead_of_ne {i : Instr} {s t : State} {n : RegName} (h : CommandEffect s i t)
    (hbank : n.bank ≠ 3) (hi : ∀ d, i ≠ .wrreg n.bank n.idx d) : t.regRead n = s.regRead n := by
  have hne {b : BitVec 2} {x : BitVec 6} {d : Word} {m : RegName}
      (hw : ∀ d', Instr.wrreg b x d ≠ .wrreg n.bank n.idx d') (hm : regName b x = some m) : n ≠ m := by
    rintro rfl
    obtain ⟨rfl, rfl⟩ := regName_eq_some hm
    exact hw d rfl
  cases h with
  | @wroteParam b x d r hn hd =>
    rw [← s.setParam_regRead_of_ne hbank (hne hi hn) d]
    exact State.regRead_congr hbank rfl rfl rfl
  | @wroteOfs b x d c r hn hd =>
    rw [← s.setOfs_regRead_of_ne hbank (hne hi hn) d]
    exact State.regRead_congr hbank rfl rfl rfl
  | sampled =>
    rw [sampleWith_eq]
    exact State.regRead_congr hbank (by simp) (by simp) (by simp)
  | raised | nop | read | wroteStatus | rateSet | rateKept | channelsReset | latched =>
    exact State.regRead_congr hbank rfl rfl rfl

/-- An accepted WRREG of a register of banks 0 to 2 stores its data word. -/
theorem CommandEffect.regRead_of_accepted {s t : State} {n : RegName} {d : Word}
    (h : CommandEffect s (.wrreg n.bank n.idx d) t) (hbank : n.bank ≠ 3) (hok : t.resp = some ⟨.ok, 0⟩) :
    t.regRead n = d := by
  have hname := regName_bank_idx n
  cases h with
  | raised i e => simp at hok
  | wroteParam hn hd =>
    obtain rfl := Option.some.inj (hname.symm.trans hn)
    exact s.setParam_regRead_self _ d
  | wroteOfs hn hd =>
    obtain rfl := Option.some.inj (hname.symm.trans hn)
    exact s.setOfs_regRead_self _ _ d
  | wroteStatus hn =>
    obtain rfl := Option.some.inj (hname.symm.trans hn)
    exact absurd rfl hbank

/-- The first command of a run, and the rest of it. -/
theorem runCommands_cons {i : Instr} {is : List Instr} {s u : State} {rs : List Response}
    (h : runCommands (i :: is) s = some (rs, u)) :
    ∃ t r rs', exec i s = .next t ∧ t.resp = some r ∧ runCommands is t = some (rs', u) ∧ rs = r :: rs' := by
  rw [runCommands] at h
  split at h
  · next t hexec =>
    split at h
    · next r rs' v hresp hrun =>
      cases h
      exact ⟨t, r, rs', hexec, hresp, hrun, rfl⟩
    · cases h
  · cases h

/-- Commands that are no WRREG of the register leave it as it was. -/
theorem runCommands_regRead {n : RegName} (hbank : n.bank ≠ 3) {js : List Instr} {s u : State} {rs : List Response}
    (hjs : ∀ j ∈ js, ∀ d, j ≠ .wrreg n.bank n.idx d) (h : runCommands js s = some (rs, u)) :
    u.regRead n = s.regRead n := by
  induction js generalizing s rs with
  | nil =>
    cases h
    rfl
  | cons j js ih =>
    obtain ⟨t, r, rs', hexec, -, hrun, -⟩ := runCommands_cons h
    rw [List.forall_mem_cons] at hjs
    calc u.regRead n = t.regRead n := ih hjs.2 hrun
      _ = s.regRead n := (commandEffect_of_exec hexec).regRead_of_ne hbank hjs.1

/-- RDREG of a register answers with what it holds. -/
theorem exec_rdreg (n : RegName) (s : State) :
    exec (.rdreg n.bank n.idx) s = .next { s with resp := some ⟨.ok, s.regRead n⟩ } :=
  execRdreg_of_exists s (regName_bank_idx n)

/-- Settles O27: the commands in between keep the register, and before them it holds the value written or the reset
value. -/
theorem readReturnsLastWrite : Obligations.ReadReturnsLastWrite := by
  intro n js hbank hjs
  constructor
  · intro s t u d rs hexec hok hrun
    rw [exec_rdreg, runCommands_regRead hbank hjs hrun, (commandEffect_of_exec hexec).regRead_of_accepted hbank hok]
  · intro u rs hrun
    rw [exec_rdreg, runCommands_regRead hbank hjs hrun]

/-! ### Effective parameters (R57) -/

theorem Env.p_of_offset (e : Env) {n : PReg} {r : OReg} {lo hi : F64} (hofs : n.ofs = some r)
    (hrange : n.range e.cfg e.sr = some (lo, hi)) :
    e.p n = F64.clamp ((real (e.act.param.get n)).add (real ((e.act.ofs e.chan).get r))) lo hi := by
  simp only [Env.p, hofs, hrange, Env.ofs]

theorem Env.p_of_no_offset (e : Env) {n : PReg} {lo hi : F64} (hofs : n.ofs = none)
    (hrange : n.range e.cfg e.sr = some (lo, hi)) : e.p n = F64.clamp (real (e.act.param.get n)) lo hi := by
  simp only [Env.p, hofs, hrange]

/-- Settles O33: the columns of R47, row by row. -/
theorem effectiveParameters : Obligations.EffectiveParameters := by
  intro e
  refine ⟨?offset, e.p_of_no_offset rfl rfl, e.p_of_no_offset rfl rfl, fun _ => rfl, fun _ => rfl⟩
  case offset =>
    intro x hx
    simp only [List.mem_cons, List.not_mem_nil, or_false] at hx
    rcases hx with rfl | rfl | rfl | rfl | rfl | rfl | rfl | rfl | rfl | rfl | rfl | rfl | rfl | rfl | rfl
    all_goals
      dsimp only
      exact e.p_of_offset rfl rfl

end Machine
end Sys2Proof
end

section
/-! What an SMP reads (R45, R60, R209): the proof of O37. -/

namespace Sys2Proof.Machine

@[simp] theorem Chan.ofCh_chanNum (c : Chan) : Chan.ofCh (BitVec.ofNat 8 (chanNum c)) = some c := by
  cases c <;> rfl

theorem exec_smpOf_of_configured {s : State} (h : s.configured = true) (c : Chan) (d : Word) :
    exec (smpOf c d) s = .next (sampleWith params c (real d) s) :=
  congrArg _ (smpWith_of_configured params d s (Chan.ofCh_chanNum c) h)

theorem exec_smpOf_of_notCfg {s : State} (h : s.configured = false) (c : Chan) (d : Word) :
    exec (smpOf c d) s = .next (s.raise .notCfg (encodeWord (smpOf c d))) :=
  congrArg _ (smpWith_of_notCfg params d s (Chan.ofCh_chanNum c) h)

@[simp] theorem State.raise_chan (s : State) (e : CmdError) (cw : CmdWord) (c : Chan) :
    (s.raise e cw).chan c = s.chan c := by
  cases c <;> rfl

/-- The kernels read the rate and the active set of a state (R45, R57). -/
theorem State.env_congr {s s' : State} (hsr : s.sr = s'.sr) (hact : s.act = s'.act) (cfg : Config.Params) (c : Chan) :
    s.env cfg c = s'.env cfg c := by
  rw [State.env, State.env, hsr, hact]

/-- Settles O37. -/
theorem smpReadsOnlyItsChannel : Obligations.SmpReadsOnlyItsChannel := by
  intro s s' t t' c d hsr hact hconf hchan hs hs'
  cases h : s.configured with
  | false =>
    rw [exec_smpOf_of_notCfg h] at hs
    rw [exec_smpOf_of_notCfg (hconf ▸ h)] at hs'
    cases hs
    cases hs'
    exact ⟨rfl, by simpa using hchan⟩
  | true =>
    rw [exec_smpOf_of_configured h, sampleWith_eq] at hs
    rw [exec_smpOf_of_configured (hconf ▸ h), sampleWith_eq, ← hchan, ← State.env_congr hsr hact] at hs'
    cases hs
    cases hs'
    exact ⟨rfl, by simp⟩

end Sys2Proof.Machine
end

section
/-! The meter port (R108-R110): which boundaries a read can return, and that a fair port ends at the present one.  The
proofs of O57, O58, O59 and O60. -/

namespace Sys2Proof.Machine

/-! ### One meter-port read -/

/-- A meter-port read taken off the port is one with the free value `meterLag`. -/
theorem step_meterRead {s : State} {idx : BitVec 6} {rest : List Event} (hport : s.port = .meterRead idx :: rest) :
    step s = .next ((s.withPort rest).meterReadWith Config.meterLag idx) := by
  simp only [step, hport, State.meterRead]

theorem State.meterReadWith_meterResp_of_reserved {s : State} {idx : BitVec 6} (h : SReg.ofIdx idx = none)
    (lag : Nat → Nat → Nat) : (s.meterReadWith lag idx).meterResp = some 0 := by
  simp only [State.meterReadWith, h]

theorem State.MeterSound.withPort {s : State} (h : s.MeterSound) (rest : List Event) :
    (s.withPort rest).MeterSound := h

/-- Settles O57: the boundary is the one `meterBoundary` gives. -/
theorem meterPortReads : Obligations.MeterPortReads := by
  intro s idx rest r hsound hport hr
  have hself := (s.withPort rest).meterReadWith_seen_self Config.meterLag idx
  have hresp := State.meterReadWith_meterResp (s := s.withPort rest) hr Config.meterLag
  exact ⟨_, _, step_meterRead hport, (s.withPort rest).seen_le_meterBoundary _ idx,
    State.meterBoundary_le (hsound.withPort rest) _ idx, hresp, hself,
    fun j hj => State.meterReadWith_seen_of_ne _ _ hj,
    ⟨rfl, rfl, rfl, rfl, rfl, rfl, rfl, rfl⟩, ⟨rfl, rfl⟩, rfl, rfl, rfl⟩

/-- Settles O58. -/
theorem meterPortReservedIndex : Obligations.MeterPortReservedIndex := by
  intro s idx rest hport
  exact ⟨_, step_meterRead hport, rfl, rfl, fun h => State.meterReadWith_meterResp_of_reserved h _,
    fun r _ h => ⟨_, State.meterReadWith_meterResp h _⟩⟩

/-! ### Command boundaries -/

/-- Every command leaves the ports alone (R107, R108). -/
theorem CommandEffect.samePorts {i : Instr} {s t : State} (h : CommandEffect s i t) : s.SamePorts t := by
  cases h with
  | wroteOfs => simp [State.SamePorts]
  | sampled => simp [State.SamePorts, sampleWith_eq]
  | raised | nop | read | wroteParam | wroteStatus | rateSet | rateKept | channelsReset | latched =>
    exact ⟨rfl, rfl, rfl, rfl, rfl⟩

/-- A step that takes a command keeps bank 3 as the boundary before it, and all earlier boundaries, whether its word
decodes or not. -/
theorem history_of_step_command {s t : State} {cw : CmdWord} {d : Word} {rest : List Event}
    (hport : s.port = .command cw d :: rest) (hstep : step s = .next t) : t.history = s.statBank :: s.history := by
  simp only [step, hport] at hstep
  split at hstep
  · obtain ⟨-, hhistory, -⟩ := (commandEffect_of_exec hstep).samePorts
    exact hhistory
  · cases hstep
    rfl

/-- A boundary before the present one is an entry of the record, which lists the latest first. -/
theorem State.boundary_of_lt {s : State} {k : Nat} (hk : k < s.history.length) :
    s.boundary k = s.history[s.history.length - 1 - k] := by
  rw [State.boundary, if_neg (Nat.not_le.mpr hk), List.getD_eq_getElem]

/-- One boundary more leaves every boundary up to then as it was, the then present one included. -/
theorem State.boundary_of_history_cons {s t : State} (h : t.history = s.statBank :: s.history) {k : Nat}
    (hk : k ≤ s.history.length) : t.boundary k = s.boundary k := by
  have hlen : t.history.length = s.history.length + 1 := by rw [h, List.length_cons]
  rw [State.boundary_of_lt (by omega)]
  simp only [h, List.length_cons, Nat.add_sub_cancel]
  rcases Nat.lt_or_eq_of_le hk with hlt | rfl
  · have hpos : s.history.length - k = s.history.length - 1 - k + 1 := by omega
    simp only [hpos, List.getElem_cons_succ, State.boundary_of_lt hlt]
  · simp only [Nat.sub_self, List.getElem_cons_zero, State.boundary_length]

/-- Settles O59. -/
theorem commandBoundariesAreKept : Obligations.CommandBoundariesAreKept := by
  intro s t cw d rest hport hstep
  have hhistory := history_of_step_command hport hstep
  exact ⟨by rw [hhistory, List.length_cons], fun _ hk => State.boundary_of_history_cons hhistory hk,
    s.boundary_length⟩

/-! ### Eventual visibility -/

/-- How many boundaries lie between the one the last read of an index returned and the present one. -/
def State.unseen (s : State) (idx : BitVec 6) : Nat := s.history.length - s.seen[idx.toNat]

/-- A read of the index covers the part of that distance that `lag` settles. -/
theorem State.meterReadWith_unseen_self (s : State) (lag : Nat → Nat → Nat) (idx : BitVec 6) :
    (s.meterReadWith lag idx).unseen idx =
      s.unseen idx - lag idx.toNat s.meterReads[idx.toNat] % (s.unseen idx + 1) := by
  rw [State.unseen, State.meterReadWith_seen_self, State.meterReadWith_history, State.meterBoundary, Nat.sub_add_eq]
  rfl

theorem State.meterReadWith_unseen_of_ne (s : State) (lag : Nat → Nat → Nat) {idx j : BitVec 6} (h : j ≠ idx) :
    (s.meterReadWith lag idx).unseen j = s.unseen j := by
  rw [State.unseen, State.meterReadWith_seen_of_ne s lag h, State.meterReadWith_history, State.unseen]

theorem State.readMeters_concat (s : State) (lag : Nat → Nat → Nat) (l : List (BitVec 6)) (idx : BitVec 6) :
    s.readMeters lag (l ++ [idx]) = (s.readMeters lag l).meterReadWith lag idx := by
  induction l generalizing s with
  | nil => rfl
  | cons i l ih => exact ih _

/-- From some number of reads of the index on, at most `k` boundaries are unseen, whatever other indices are read. -/
def State.EventuallyUnseenLe (s : State) (lag : Nat → Nat → Nat) (idx : BitVec 6) (k : Nat) : Prop :=
  ∃ n, ∀ before : List (BitVec 6), n ≤ before.count idx → (s.readMeters lag before).unseen idx ≤ k

/-- Fairness brings a read that covers the whole distance, if the distance has not become shorter by then. -/
theorem MeterFair.eventuallyUnseenLe_pred {lag : Nat → Nat → Nat} (hfair : MeterFair lag) {s : State} {idx : BitVec 6}
    {k : Nat} (h : s.EventuallyUnseenLe lag idx (k + 1)) : s.EventuallyUnseenLe lag idx k := by
  obtain ⟨n, hn⟩ := h
  obtain ⟨m, hm, hcover⟩ := hfair idx.toNat (s.meterReads[idx.toNat] + n) (k + 1)
  refine ⟨m - s.meterReads[idx.toNat] + 1, fun before hcount => ?_⟩
  induction before using List.reverseRecOn with
  | nil => exact absurd hcount (by simp)
  | append_singleton l i ih =>
    rw [State.readMeters_concat]
    rw [List.count_append] at hcount
    by_cases hi : i = idx
    · subst hi
      rw [List.count_singleton_self] at hcount
      rw [State.meterReadWith_unseen_self, State.readMeters_meterReads]
      by_cases hlater : m - s.meterReads[i.toNat] + 1 ≤ l.count i
      · exact (Nat.sub_le _ _).trans (ih hlater)
      · have hle := hn l (by omega)
        have hnow : s.meterReads[i.toNat] + l.count i = m := by omega
        rcases Nat.lt_or_eq_of_le hle with hlt | heq
        · exact (Nat.sub_le _ _).trans (Nat.le_of_lt_succ hlt)
        · rw [hnow, heq, hcover, Nat.sub_self]
          exact Nat.zero_le k
    · rw [List.count_singleton, if_neg (by simpa using hi)] at hcount
      rw [State.meterReadWith_unseen_of_ne _ lag (Ne.symm hi)]
      exact ih hcount

theorem MeterFair.eventuallyUnseenLe_zero {lag : Nat → Nat → Nat} (hfair : MeterFair lag) {s : State} {idx : BitVec 6}
    {k : Nat} (h : s.EventuallyUnseenLe lag idx k) : s.EventuallyUnseenLe lag idx 0 := by
  induction k with
  | zero => exact h
  | succ k ih => exact ih (hfair.eventuallyUnseenLe_pred h)

/-- No more boundaries than there are can be unseen. -/
theorem State.eventuallyUnseenLe_history (s : State) (lag : Nat → Nat → Nat) (idx : BitVec 6) :
    s.EventuallyUnseenLe lag idx s.history.length := by
  refine ⟨0, fun before _ => ?_⟩
  rw [State.unseen, State.readMeters_history]
  exact Nat.sub_le _ _

/-- With no boundary unseen a read returns the current value. -/
theorem State.meterReadWith_current {s : State} {idx : BitVec 6} {r : SReg} (hsound : s.MeterSound)
    (hr : SReg.ofIdx idx = some r) (hseen : s.unseen idx = 0) (lag : Nat → Nat → Nat) :
    (s.meterReadWith lag idx).meterResp = some (s.statBank.get r) := by
  have hpresent : s.meterBoundary lag idx = s.history.length :=
    (State.meterBoundary_le hsound lag idx).antisymm
      ((Nat.le_of_sub_eq_zero hseen).trans (s.seen_le_meterBoundary lag idx))
  rw [State.meterReadWith_meterResp hr, hpresent, State.boundary_length]

/-- Settles O60: under fairness the distance to the present boundary becomes 0. -/
theorem meterPortEventuallyCurrent : Obligations.MeterPortEventuallyCurrent := by
  refine ⟨fun s idx rest hport => step_meterRead hport, fun lag hfair s idx r hsound hr => ?_⟩
  obtain ⟨n, hn⟩ := hfair.eventuallyUnseenLe_zero (s.eventuallyUnseenLe_history lag idx)
  refine ⟨n, fun before hcount => ?_⟩
  rw [State.meterReadWith_current (hsound.readMeters lag before) hr (Nat.le_zero.mp (hn before hcount)),
    State.readMeters_statBank]

end Sys2Proof.Machine
end

section
/-! A register written twice with one value (R106): the proof of O24. -/

namespace Sys2Proof.Machine

/-! ### Updates made twice -/

theorem setError_setError (errs : BitVec 5) (e : CmdError) : setError (setError errs e) e = setError errs e := by
  rw [setError, setError, BitVec.or_assoc, BitVec.or_self]

theorem clearErrors_clearErrors (errs : BitVec 5) (v : Word) :
    clearErrors (clearErrors errs v) v = clearErrors errs v := by
  rw [clearErrors, clearErrors, BitVec.and_assoc, BitVec.and_self]

theorem State.raise_raise (s : State) (e : CmdError) (cw : CmdWord) : (s.raise e cw).raise e cw = s.raise e cw := by
  simp only [State.raise, setError_setError]

theorem State.ok_setParam_self (s : State) (r : PReg) (d rd : Word) :
    ((s.setParam r d).ok rd).setParam r d = (s.setParam r d).ok rd := by
  simp only [State.setParam, State.ok, State.respond, ParamBank.set_set]

theorem State.ok_setOfs_self (s : State) (c : Chan) (r : OReg) (d rd : Word) :
    ((s.setOfs c r d).ok rd).setOfs c r d = (s.setOfs c r d).ok rd := by
  cases c <;> simp only [State.setOfs, State.ok, State.respond, OfsBank.set_set]

theorem State.ok_clearStatus_self (s : State) (d rd : Word) :
    ((s.clearStatus d).ok rd).clearStatus d = (s.clearStatus d).ok rd := by
  simp only [State.clearStatus, State.ok, State.respond, clearErrors_clearErrors]

/-! ### Writes made twice -/

/-- An accepted write, made again, changes nothing. -/
theorem State.regWrite_of_written {s t : State} {n : RegName} {d : Word} (h : s.regWrite n d = .ok t) (rd : Word) :
    (t.ok rd).regWrite n d = .ok (t.ok rd) := by
  rcases s.regWrite_cases n d with ⟨r, rfl, hd, hw⟩ | ⟨c, r, rfl, hd, hw⟩ | ⟨rfl, hw⟩ | ⟨-, hw⟩ | ⟨-, hw⟩ | ⟨-, hw⟩ <;>
    rw [hw] at h <;> cases h
  · simp only [State.regWrite, hd, if_true, State.ok_setParam_self]
  · simp only [State.regWrite, hd, if_true, State.ok_setOfs_self]
  · exact congrArg _ (s.ok_clearStatus_self d rd)

/-- Whether a write is refused, and how, is settled by the register and the value alone. -/
theorem State.regWrite_error_of_error {s : State} {n : RegName} {d : Word} {e : CmdError}
    (h : s.regWrite n d = .error e) (u : State) : u.regWrite n d = .error e := by
  rcases s.regWrite_cases n d with ⟨r, rfl, hd, hw⟩ | ⟨c, r, rfl, hd, hw⟩ | ⟨rfl, hw⟩ | ⟨⟨r, rfl, hd⟩, hw⟩ |
    ⟨⟨c, r, rfl, hd⟩, hw⟩ | ⟨⟨r, rfl, hr⟩, hw⟩ <;> rw [hw] at h <;> cases h
  · simp only [State.regWrite, hd, Bool.false_eq_true, if_false]
  · simp only [State.regWrite, hd, Bool.false_eq_true, if_false]
  · exact u.regWrite_stat_of_ne hr d

theorem execWrreg_of_ok {bank : BitVec 2} {idx : BitVec 6} {n : RegName} {d : Word} {s t : State}
    (hn : regName bank idx = some n) (hw : s.regWrite n d = .ok t) : execWrreg bank idx d s = .next (t.ok 0) := by
  simp only [execWrreg, hn, hw]

theorem execWrreg_of_error {bank : BitVec 2} {idx : BitVec 6} {n : RegName} {d : Word} {s : State} {e : CmdError}
    (hn : regName bank idx = some n) (hw : s.regWrite n d = .error e) :
    execWrreg bank idx d s = .next (s.raise e (encodeWord (.wrreg bank idx d))) := by
  simp only [execWrreg, hn, hw]

/-- Settles O24, by what the address names and whether the write is accepted. -/
theorem wrregIdempotent : Obligations.WrregIdempotent := by
  intro b i d s t h
  change execWrreg b i d s = .next t at h
  change execWrreg b i d t = .next t
  cases hn : regName b i with
  | none =>
    rw [execWrreg_of_reserved d s hn] at h
    cases h
    rw [execWrreg_of_reserved d _ hn, State.raise_raise]
  | some n =>
    cases hw : s.regWrite n d with
    | ok u =>
      rw [execWrreg_of_ok hn hw] at h
      cases h
      rw [execWrreg_of_ok hn (State.regWrite_of_written hw 0), State.ok_ok]
    | error e =>
      rw [execWrreg_of_error hn hw] at h
      cases h
      rw [execWrreg_of_error hn (State.regWrite_error_of_error hw _), State.raise_raise]

end Sys2Proof.Machine
end

section
/-! Runs of SMPs, channel by channel (R112): the proof of O38.  `State.chanRun` is what one channel makes of its own
samples, and `runCommands_smps` says that a run of SMPs is that for each channel and nothing else. -/

namespace Sys2Proof.Machine

/-! ### One channel on its own -/

/-- One configured SMP on its channel's engine: the response and the engine after it (R209). -/
def sampleChan (e : Env) (x : ChanState) (d : Word) : Response × ChanState :=
  (⟨.ok, showReal e.chan (x.epoch + 1) slotResponse (chain e x (real d)).2⟩,
    { (chain e x (real d)).1 with epoch := x.epoch + 1 })

/-- An engine's samples one after the other: the responses, and the engine after them. -/
def sampleRun (e : Env) : List Word → ChanState → List Response × ChanState
  | [], x => ([], x)
  | d :: ds, x =>
    ((sampleChan e x d).1 :: (sampleRun e ds (sampleChan e x d).2).1, (sampleRun e ds (sampleChan e x d).2).2)

/-- What channel `c` makes of its own samples of a list. -/
def State.chanRun (s : State) (xs : List (Chan × Word)) (c : Chan) : List Response × ChanState :=
  sampleRun (s.env params c) (samplesOf c xs) (s.chan c)

/-- The state after a configured SMP. -/
def State.sampled (s : State) (c : Chan) (d : Word) : State :=
  let r := sampleChan (s.env params c) (s.chan c) d
  (s.setChan c r.2).respond r.1

theorem exec_smpOf_eq_sampled {s : State} (h : s.configured = true) (c : Chan) (d : Word) :
    exec (smpOf c d) s = .next (s.sampled c d) :=
  exec_smpOf_of_configured h c d

@[simp] theorem State.sampled_configured (s : State) (c : Chan) (d : Word) :
    (s.sampled c d).configured = s.configured := by
  simp [State.sampled]

@[simp] theorem State.sampled_env (s : State) (c c' : Chan) (d : Word) (cfg : Config.Params) :
    (s.sampled c d).env cfg c' = s.env cfg c' := by
  cases c <;> rfl

@[simp] theorem State.sampled_chan_self (s : State) (c : Chan) (d : Word) :
    (s.sampled c d).chan c = (sampleChan (s.env params c) (s.chan c) d).2 := by
  simp [State.sampled]

theorem State.sampled_chan_of_ne (s : State) {c c' : Chan} (h : c' ≠ c) (d : Word) :
    (s.sampled c d).chan c' = s.chan c' := by
  simp [State.sampled, State.setChan_chan_of_ne s h]

/-! ### The samples and the responses of one channel -/

theorem samplesOf_cons_self (c : Chan) (d : Word) (xs : List (Chan × Word)) :
    samplesOf c ((c, d) :: xs) = d :: samplesOf c xs := by
  simp [samplesOf]

theorem samplesOf_cons_of_ne {c c' : Chan} (h : c' ≠ c) (d : Word) (xs : List (Chan × Word)) :
    samplesOf c' ((c, d) :: xs) = samplesOf c' xs := by
  simp [samplesOf, h.symm]

theorem responsesOf_cons_self (c : Chan) (d : Word) (xs : List (Chan × Word)) (r : Response) (rs : List Response) :
    responsesOf c ((c, d) :: xs) (r :: rs) = r :: responsesOf c xs rs := by
  simp [responsesOf]

theorem responsesOf_cons_of_ne {c c' : Chan} (h : c' ≠ c) (d : Word) (xs : List (Chan × Word)) (r : Response)
    (rs : List Response) : responsesOf c' ((c, d) :: xs) (r :: rs) = responsesOf c' xs rs := by
  simp [responsesOf, h.symm]

theorem State.chanRun_cons_self (s : State) (c : Chan) (d : Word) (xs : List (Chan × Word)) :
    s.chanRun ((c, d) :: xs) c =
      ((sampleChan (s.env params c) (s.chan c) d).1 :: ((s.sampled c d).chanRun xs c).1,
        ((s.sampled c d).chanRun xs c).2) := by
  simp only [State.chanRun, samplesOf_cons_self, sampleRun, State.sampled_env, State.sampled_chan_self]

theorem State.chanRun_cons_of_ne (s : State) {c c' : Chan} (h : c' ≠ c) (d : Word) (xs : List (Chan × Word)) :
    s.chanRun ((c, d) :: xs) c' = (s.sampled c d).chanRun xs c' := by
  simp only [State.chanRun, samplesOf_cons_of_ne h, State.sampled_env, s.sampled_chan_of_ne h]

/-- Another channel's sample, or this channel's own: the engine at the end is that of the rest of the run. -/
theorem State.chanRun_cons_snd (s : State) (c c' : Chan) (d : Word) (xs : List (Chan × Word)) :
    (s.chanRun ((c, d) :: xs) c').2 = ((s.sampled c d).chanRun xs c').2 := by
  by_cases h : c' = c
  · subst h
    rw [State.chanRun_cons_self]
  · rw [State.chanRun_cons_of_ne s h]

/-! ### Runs of both channels -/

/-- The state with both engines given, and a response: all that SMPs of a configured block change. -/
def State.withEngines (s : State) (x : Chan → ChanState) (resp : Option Response) : State :=
  { s with chL := x .L, chR := x .R, resp := resp }

@[simp] theorem State.sampled_withEngines (s : State) (c : Chan) (d : Word) (x : Chan → ChanState)
    (resp : Option Response) : (s.sampled c d).withEngines x resp = s.withEngines x resp := by
  cases c <;> rfl

theorem runCommands_cons_of_next {i : Instr} {is : List Instr} {s t u : State} {r : Response} {rs : List Response}
    (hexec : exec i s = .next t) (hresp : t.resp = some r) (hrun : runCommands is t = some (rs, u)) :
    runCommands (i :: is) s = some (r :: rs, u) := by
  simp only [runCommands, hexec, hresp, hrun]

/-- A run of SMPs of a configured block is each channel's own run, whatever their order. -/
theorem runCommands_smps {s : State} (h : s.configured = true) (xs : List (Chan × Word)) :
    ∃ rs resp, runCommands (smps xs) s = some (rs, s.withEngines (fun c => (s.chanRun xs c).2) resp) ∧
      ∀ c, responsesOf c xs rs = (s.chanRun xs c).1 := by
  induction xs generalizing s with
  | nil => exact ⟨[], s.resp, rfl, fun _ => rfl⟩
  | cons p xs ih =>
    obtain ⟨c, d⟩ := p
    obtain ⟨rs, resp, hrun, hrs⟩ := ih (s := s.sampled c d) (by rw [State.sampled_configured, h])
    refine ⟨(sampleChan (s.env params c) (s.chan c) d).1 :: rs, resp, ?run, fun c' => ?responses⟩
    case run =>
      simp only [State.chanRun_cons_snd]
      rw [State.sampled_withEngines] at hrun
      exact runCommands_cons_of_next (exec_smpOf_eq_sampled h c d) rfl hrun
    case responses =>
      by_cases hc : c' = c
      · subst hc
        rw [responsesOf_cons_self, State.chanRun_cons_self, hrs]
      · rw [responsesOf_cons_of_ne hc, State.chanRun_cons_of_ne s hc, hrs]

/-- Settles O38: both orders are the same run of each channel. -/
theorem channelsInterleaveFreely : Obligations.ChannelsInterleaveFreely := by
  intro s xs ys hconf hsamples
  obtain ⟨rs, resp, hrun, hrs⟩ := runCommands_smps hconf xs
  obtain ⟨rs', resp', hrun', hrs'⟩ := runCommands_smps hconf ys
  have hsame : s.chanRun xs = s.chanRun ys := funext fun c => by rw [State.chanRun, hsamples, State.chanRun]
  rw [← hsame] at hrun' hrs'
  exact ⟨rs, rs', _, _, hrun, hrun', fun c => (hrs c).trans (hrs' c).symm, rfl⟩

end Sys2Proof.Machine
end

section
/-!
Decoding and encoding (R140-R146): the words that decode are those the encoder writes for a well-formed command, and
every other word ends with BADCMD.  The proofs of O4, O5, O6 and O7.
-/

namespace Sys2Proof

/-! ### The data word of a command -/

/-- The command with the data word `d` presented in place of its own; one that ignores the data word is the same (R142). -/
def Instr.withData (i : Instr) (d : Word) : Instr :=
  match i with
  | .wrreg b x _ => .wrreg b x d
  | .setsr _ => .setsr d
  | .smp c _ => .smp c d
  | .nop => .nop
  | .rdreg b x => .rdreg b x
  | .reset => .reset
  | .block => .block

@[simp] theorem Instr.withData_encodeData (i : Instr) : i.withData (encodeData i) = i := by
  cases i <;> rfl

@[simp] theorem encodeWord_withData (i : Instr) (d : Word) : encodeWord (i.withData d) = encodeWord i := by
  cases i <;> rfl

@[simp] theorem Instr.mnemonic_withData (i : Instr) (d : Word) : (i.withData d).mnemonic = i.mnemonic := by
  cases i <;> rfl

/-! ### Fields of a packed word (R141) -/

@[simp] theorem fieldOpc_packWord (o : BitVec 8) (b : BitVec 2) (x : BitVec 6) (c : BitVec 8) :
    fieldOpc (packWord o b x c) = o := (fields_packWord o b x c).1

@[simp] theorem fieldBank_packWord (o : BitVec 8) (b : BitVec 2) (x : BitVec 6) (c : BitVec 8) :
    fieldBank (packWord o b x c) = b := (fields_packWord o b x c).2.1

@[simp] theorem fieldIdx_packWord (o : BitVec 8) (b : BitVec 2) (x : BitVec 6) (c : BitVec 8) :
    fieldIdx (packWord o b x c) = x := (fields_packWord o b x c).2.2.1

@[simp] theorem fieldCh_packWord (o : BitVec 8) (b : BitVec 2) (x : BitVec 6) (c : BitVec 8) :
    fieldCh (packWord o b x c) = c := (fields_packWord o b x c).2.2.2.1

@[simp] theorem fieldRsv_packWord (o : BitVec 8) (b : BitVec 2) (x : BitVec 6) (c : BitVec 8) :
    fieldRsv (packWord o b x c) = 0 := (fields_packWord o b x c).2.2.2.2

/-- A word with RSV zero is packed from what its fields are known to be. -/
theorem packWord_eq_of_fields {cw : CmdWord} {o : BitVec 8} {b : BitVec 2} {x : BitVec 6} {c : BitVec 8}
    (hrsv : fieldRsv cw = 0) (ho : fieldOpc cw = o) (hb : fieldBank cw = b) (hx : fieldIdx cw = x)
    (hc : fieldCh cw = c) : packWord o b x c = cw := by
  subst ho hb hx hc
  exact packWord_fields hrsv

/-- CH is 0 or 1 exactly when its seven upper bits, which R144 reserves in SMP, are zero. -/
theorem fieldCh_lt_two_iff (cw : CmdWord) : (fieldCh cw).toNat < 2 ↔ cw.extractLsb' 9 7 = 0 := by
  have hbits : cw.extractLsb' 9 7 = (fieldCh cw).extractLsb' 1 7 := by
    apply BitVec.eq_of_getLsbD_eq
    intro k hk
    simp [fieldCh, hk, show 1 + k < 8 by omega, ← Nat.add_assoc]
  have hall : ∀ c : BitVec 8, c.toNat < 2 ↔ c.extractLsb' 1 7 = 0 := by decide
  rw [hbits]
  exact hall _

/-! ### The decoder against the encoder (R146) -/

/-- The word of a well-formed command decodes to it with the data word presented. -/
theorem decode_encodeWord {i : Instr} (h : i.WellFormed) (d : Word) : decode (encodeWord i) d = .cmd (i.withData d) := by
  cases i with
  | smp c v =>
    have hc : ¬ 1 < c.toNat := Nat.not_lt.mpr (Nat.le_of_lt_succ (of_decide_eq_true h))
    simp [decode, encodeWord, Instr.withData, hc]
  | nop | wrreg | rdreg | setsr | reset | block => simp [decode, encodeWord, Instr.withData]

/-- A command that the decoder answers is well-formed, has the word presented, and holds the data word presented if it
takes one. -/
theorem of_decode_eq_cmd {cw : CmdWord} {d : Word} {i : Instr} (h : decode cw d = .cmd i) :
    i.WellFormed ∧ encodeWord i = cw ∧ i.withData d = i := by
  unfold decode at h
  split_ifs at h with hrsv hwr hch hrd hch hsmp hzero hzero hnop hsr hrst hblk <;> cases h <;>
    simp only [not_or, not_not, Nat.not_lt] at *
  · exact ⟨rfl, packWord_eq_of_fields hrsv hwr rfl rfl hch, rfl⟩
  · exact ⟨rfl, packWord_eq_of_fields hrsv hrd rfl rfl hch, rfl⟩
  · obtain ⟨hb, hx, hc⟩ := hzero
    exact ⟨decide_eq_true (Nat.lt_succ_of_le hc), packWord_eq_of_fields hrsv hsmp hb hx rfl, rfl⟩
  all_goals obtain ⟨hb, hx, hc⟩ := hzero
  · exact ⟨rfl, packWord_eq_of_fields hrsv hnop hb hx hc, rfl⟩
  · exact ⟨rfl, packWord_eq_of_fields hrsv hsr hb hx hc, rfl⟩
  · exact ⟨rfl, packWord_eq_of_fields hrsv hrst hb hx hc, rfl⟩
  · exact ⟨rfl, packWord_eq_of_fields hrsv hblk hb hx hc, rfl⟩

/-- A word that no well-formed command is encoded to is BADCMD. -/
theorem decode_of_encodeWord_ne {cw : CmdWord} (h : ∀ i : Instr, i.WellFormed → encodeWord i ≠ cw) (d : Word) :
    decode cw d = .badCmd := by
  cases hd : decode cw d with
  | badCmd => rfl
  | cmd i =>
    obtain ⟨hwf, hcw, -⟩ := of_decode_eq_cmd hd
    exact absurd hcw (h i hwf)

/-- Settles O4. -/
theorem decodeOfEncode : Obligations.DecodeOfEncode := by
  intro i hwf
  rw [encode, decode_encodeWord hwf, Instr.withData_encodeData]

/-- Settles O5: the word is the encoder's, so it decodes again by the rule for encoded words. -/
theorem encodeOfDecode : Obligations.EncodeOfDecode := by
  intro cw d i h
  obtain ⟨hwf, rfl, hdata⟩ := of_decode_eq_cmd h
  refine ⟨hwf, rfl, decodeOfEncode i hwf, ?wrreg, ?setsr, ?smp⟩
  case wrreg =>
    rintro b x v rfl
    cases hdata
    rfl
  case setsr =>
    rintro v rfl
    cases hdata
    rfl
  case smp =>
    rintro c v rfl
    cases hdata
    rfl

/-! ### The opcode map (R143) -/

/-- A row as the statement of R143 writes it: mnemonic, pattern and mask. -/
def OpcodeRow.columns (r : OpcodeRow) : String × CmdWord × CmdWord := (r.mnemonic, r.pattern, r.mask)

/-- Each mnemonic names one row of the opcode map. -/
theorem opcodeTable_eq_of_mnemonic_eq : ∀ r ∈ opcodeTable, ∀ r' ∈ opcodeTable, r.mnemonic = r'.mnemonic → r = r' := by
  decide

/-- The rows that a well-formed command's word matches are the one with its mnemonic. -/
theorem hits_encodeWord_iff {i : Instr} (h : i.WellFormed) {r : OpcodeRow} (hr : r ∈ opcodeTable) :
    r.hits (encodeWord i) = true ↔ i.mnemonic = r.mnemonic := by
  have hrow : (opcodeTable.filter (·.hits (encodeWord i))).map (·.mnemonic) = [i.mnemonic] := by
    cases i with
    | nop => exact Laws.EncodedRow.nop h
    | wrreg b x d => exact Laws.EncodedRow.wrreg b x d h
    | rdreg b x => exact Laws.EncodedRow.rdreg b x h
    | setsr d => exact Laws.EncodedRow.setsr d h
    | reset => exact Laws.EncodedRow.reset h
    | block => exact Laws.EncodedRow.block h
    | smp c d => exact Laws.EncodedRow.smp c d h
  constructor
  · intro hhit
    have hmem : r ∈ opcodeTable.filter (·.hits (encodeWord i)) := List.mem_filter.mpr ⟨hr, hhit⟩
    have hname : r.mnemonic ∈ [i.mnemonic] := hrow ▸ List.mem_map_of_mem hmem
    exact (List.mem_singleton.mp hname).symm
  · intro hname
    have hmem : i.mnemonic ∈ (opcodeTable.filter (·.hits (encodeWord i))).map (·.mnemonic) := by simp [hrow]
    obtain ⟨r', hr', hname'⟩ := List.mem_map.mp hmem
    obtain ⟨hr', hhit⟩ := List.mem_filter.mp hr'
    rwa [opcodeTable_eq_of_mnemonic_eq r hr r' hr' (hname.symm.trans hname'.symm)]

/-- A field that a mask keeps whole is the pattern's. -/
theorem extractLsb'_eq_of_and_eq {n k w : Nat} {a m p : BitVec n} (h : a &&& m = p)
    (hm : m.extractLsb' k w = BitVec.allOnes w) : a.extractLsb' k w = p.extractLsb' k w := by
  rw [← h, BitVec.extractLsb'_and, hm, BitVec.and_allOnes]

/-- A word that matches a row is a well-formed command's: one with the word's own fields where the mask is open. -/
theorem exists_encodeWord_of_hits {r : OpcodeRow} (hr : r ∈ opcodeTable) {cw : CmdWord} (h : r.hits cw = true) :
    ∃ i : Instr, i.WellFormed ∧ encodeWord i = cw := by
  have hclosed {p : CmdWord} (h : cw &&& 0xFFFFFFFF = p) : p = cw := h.symm.trans BitVec.and_allOnes
  simp only [opcodeTable, List.mem_cons, List.not_mem_nil, or_false] at hr
  have hand := beq_iff_eq.mp h
  rcases hr with rfl | rfl | rfl | rfl | rfl | rfl | rfl
  · exact ⟨.nop, rfl, hclosed hand⟩
  · exact ⟨.wrreg (fieldBank cw) (fieldIdx cw) 0, rfl, packWord_eq_of_fields (extractLsb'_eq_of_and_eq hand (by decide))
      (extractLsb'_eq_of_and_eq hand (by decide)) rfl rfl (extractLsb'_eq_of_and_eq hand (by decide))⟩
  · exact ⟨.rdreg (fieldBank cw) (fieldIdx cw), rfl, packWord_eq_of_fields (extractLsb'_eq_of_and_eq hand (by decide))
      (extractLsb'_eq_of_and_eq hand (by decide)) rfl rfl (extractLsb'_eq_of_and_eq hand (by decide))⟩
  · exact ⟨.setsr 0, rfl, hclosed hand⟩
  · exact ⟨.reset, rfl, hclosed hand⟩
  · exact ⟨.block, rfl, hclosed hand⟩
  · have hch : (fieldCh cw).toNat < 2 := (fieldCh_lt_two_iff cw).mpr (extractLsb'_eq_of_and_eq hand (by decide))
    exact ⟨.smp (fieldCh cw) 0, decide_eq_true hch, packWord_eq_of_fields (extractLsb'_eq_of_and_eq hand (by decide))
      (extractLsb'_eq_of_and_eq hand (by decide)) (extractLsb'_eq_of_and_eq hand (by decide))
      (extractLsb'_eq_of_and_eq hand (by decide)) rfl⟩

/-- A word is a command's exactly when it matches the row of that command. -/
theorem hits_iff_decode {r : OpcodeRow} (hr : r ∈ opcodeTable) (cw : CmdWord) (d : Word) :
    r.hits cw = true ↔ ∃ i, decode cw d = .cmd i ∧ i.mnemonic = r.mnemonic := by
  constructor
  · intro hhit
    obtain ⟨i, hwf, rfl⟩ := exists_encodeWord_of_hits hr hhit
    have hname := (hits_encodeWord_iff hwf hr).mp hhit
    exact ⟨i.withData d, decode_encodeWord hwf d, by rw [Instr.mnemonic_withData, hname]⟩
  · rintro ⟨i, hd, hname⟩
    obtain ⟨hwf, rfl, -⟩ := of_decode_eq_cmd hd
    exact (hits_encodeWord_iff hwf hr).mpr hname

theorem decode_eq_badCmd_of_no_row {cw : CmdWord} (h : ∀ r ∈ opcodeTable, ¬ r.hits cw = true) (d : Word) :
    decode cw d = .badCmd := by
  refine decode_of_encodeWord_ne ?_ d
  rintro i hwf rfl
  obtain ⟨r, hr, hname⟩ : ∃ r ∈ opcodeTable, i.mnemonic = r.mnemonic := by
    cases i <;> simp [opcodeTable, Instr.mnemonic]
  exact h r hr ((hits_encodeWord_iff hwf hr).mpr hname)

/-! ### Reserved words (R144) -/

/-- The words that R144 reserves: by opcode, by BANK or IDX, by CH, by CH[7:1] of SMP, and by RSV. -/
def ReservedWord (cw : CmdWord) : Prop :=
  7 ≤ (fieldOpc cw).toNat ∨
  (fieldOpc cw ∈ ([0x00, 0x03, 0x04, 0x05, 0x06] : List (BitVec 8)) ∧ (fieldBank cw ≠ 0 ∨ fieldIdx cw ≠ 0)) ∨
  (fieldOpc cw ≠ 0x06 ∧ fieldCh cw ≠ 0) ∨
  (fieldOpc cw = 0x06 ∧ cw.extractLsb' 9 7 ≠ 0) ∨
  fieldRsv cw ≠ 0

/-- No well-formed command has a reserved word. -/
theorem not_reservedWord_encodeWord {i : Instr} (h : i.WellFormed) : ¬ ReservedWord (encodeWord i) := by
  rw [ReservedWord, ne_eq (BitVec.extractLsb' 9 7 _), ← fieldCh_lt_two_iff]
  cases i with
  | smp c v =>
    have hc : c.toNat < 2 := of_decide_eq_true h
    simp [encodeWord, hc]
  | nop | wrreg | rdreg | setsr | reset | block => simp [encodeWord]

theorem ReservedWord.decode_eq_badCmd {cw : CmdWord} (h : ReservedWord cw) (d : Word) : decode cw d = .badCmd :=
  decode_of_encodeWord_ne (fun _ hwf hcw => not_reservedWord_encodeWord hwf (hcw ▸ h)) d

end Sys2Proof

namespace Sys2Proof.Machine

/-! ### Steps of words that do not decode (R146) -/

theorem step_of_decode_eq_badCmd {s : State} {cw : CmdWord} {d : Word} {rest : List Event}
    (hport : s.port = .command cw d :: rest) (hd : decode cw d = .badCmd) :
    step s = .next ((s.accept rest).raise .badCmd cw) := by
  simp only [step, hport, hd]

/-- Settles O6: its rows are the columns of `opcodeTable`. -/
theorem opcodeMapComplete : Obligations.OpcodeMapComplete := by
  intro cw d
  have hhits (r : OpcodeRow) : r.hits cw = true ↔ cw &&& r.mask = r.pattern := beq_iff_eq
  constructor
  · refine (List.forall_mem_map (f := OpcodeRow.columns) (l := opcodeTable)).mpr fun r hr => ?_
    exact (hhits r).symm.trans (hits_iff_decode hr cw d)
  · intro hnone s rest hport
    have hmiss : ∀ r ∈ opcodeTable, ¬ r.hits cw = true := fun r hr =>
      mt (hhits r).mp ((List.forall_mem_map (f := OpcodeRow.columns) (l := opcodeTable)).mp hnone r hr)
    exact step_of_decode_eq_badCmd hport (decode_eq_badCmd_of_no_row hmiss d)

/-- Settles O7: its words are the reserved ones, field by field. -/
theorem reservedWordsEndWithBadCmd : Obligations.ReservedWordsEndWithBadCmd := by
  intro cw d s rest hport hreserved
  have hword : ReservedWord cw := hreserved
  exact step_of_decode_eq_badCmd hport (hword.decode_eq_badCmd d)

end Sys2Proof.Machine
end

section
/-! The response of a command (R147): the proof of O13. -/

namespace Sys2Proof.Machine

/-- The response of a command: an error's, or OK with a word that only RDREG and SMP fill. -/
theorem CommandEffect.resp_eq {i : Instr} {s t : State} (h : CommandEffect s i t) :
    t.resp = some ⟨.err, 0⟩ ∨ ∃ w, t.resp = some ⟨.ok, w⟩ ∧
      (w = 0 ∨ (∃ b x, i = .rdreg b x) ∨ ∃ c d, i = .smp c d) := by
  cases h with
  | raised => exact .inl rfl
  | read => exact .inr ⟨_, rfl, .inr (.inl ⟨_, _, rfl⟩)⟩
  | sampled => exact .inr ⟨_, rfl, .inr (.inr ⟨_, _, rfl⟩)⟩
  | nop | wroteParam | wroteOfs | wroteStatus | rateSet | rateKept | channelsReset | latched =>
    exact .inr ⟨0, rfl, .inl rfl⟩

/-- Settles O13. -/
theorem oneResponsePerCommand : Obligations.OneResponsePerCommand := by
  intro i s t hexec
  have heffect := commandEffect_of_exec hexec
  exact ⟨heffect.samePorts, heffect.resp_eq⟩

end Sys2Proof.Machine
end

section
/-! The assembler's worked lines (R150) and the pseudo-instructions (R149): the proofs of O8 and O9. -/

namespace Sys2Proof.Machine

/-- The lines of R150 that are legal, each with the command it stands for. -/
def workedLines : List (String × Instr) :=
  [("NOP", .nop), ("SETSR 48000.0", .setsr 0x40E7700000000000), ("WRREG PI_DRIVE, 6.0", .wrreg 0 0x02 0x4018000000000000),
   ("WRREG PI_ALGO, 1", .wrreg 0 0x01 1), ("WRREG OFS_L.HPF_QOFS, 0.5", .wrreg 1 0x3C 0x3FE0000000000000),
   ("WRREG OFS_R.EQ_BASS_GAIN_OFS, -0.25", .wrreg 2 0x19 0xBFD0000000000000), ("WRREG STATUS, 0x3E", .wrreg 3 0x01 0x3E),
   ("RDREG M_CCGR_L", .rdreg 3 0x0C), ("RDREG ID", .rdreg 3 0x00), ("RESET", .reset), ("BLOCK", .block),
   ("SMP L, 0.5", .smp 0 0x3FE0000000000000), ("SMP R, -1.0", .smp 1 0xBFF0000000000000)]

theorem assembleLine_workedLines : ∀ w ∈ workedLines, assembleLine w.1 = some [w.2] := by
  decide +kernel

theorem workedLines_wellFormed : ∀ w ∈ workedLines, w.2.WellFormed := by
  decide

/-- Settles O8: the legal words are the encoder's and so decode, and three of the illegal ones are reserved. -/
theorem workedEncodings : Obligations.WorkedEncodings := by
  refine ⟨?legal, fun d => ⟨?channel, ?opcode, ?rsv⟩, fun d s => ⟨rfl, ?register⟩⟩
  case legal =>
    have hwords : ∀ w ∈ workedLines.map fun w => (w.1, encode w.2),
        ∃ i, assembleLine w.1 = some [i] ∧ encode i = w.2 ∧ decode w.2.1 w.2.2 = .cmd i := by
      rw [List.forall_mem_map]
      exact fun w hw =>
        ⟨w.2, assembleLine_workedLines w hw, rfl, decodeOfEncode w.2 (workedLines_wellFormed w hw)⟩
    exact hwords
  case channel => exact ReservedWord.decode_eq_badCmd (.inr (.inr (.inr (.inl (by decide))))) d
  case opcode => exact ReservedWord.decode_eq_badCmd (.inl (by decide)) d
  case rsv => exact ReservedWord.decode_eq_badCmd (.inr (.inr (.inr (.inr (by decide))))) d
  case register => exact execWrreg_of_reserved d s (show regName 0 3 = none by decide)

/-- Settles O9: each register's address is the one its name stands for. -/
theorem pseudoInstructionExpansions : Obligations.PseudoInstructionExpansions := by
  refine ⟨fun st f => ?bypass, fun _ _ => rfl, rfl, fun _ _ => rfl, fun _ _ _ => rfl, fun _ _ _ => rfl, fun _ => rfl⟩
  cases st <;> rfl

end Sys2Proof.Machine
end

section
/-! Flushing a subnormal (R243) and the PRNG word (R270): the proofs of O52 and O55. -/

namespace Sys2Proof
namespace F64

theorem isSubnormal_fin_iff {s : Bool} {e : Fin 2047} {f : BitVec 52} :
    (F64.fin s e f).isSubnormal = true ↔ e.val = 0 ∧ f ≠ 0 := by
  have hfrac : f.toNat = 0 ↔ f = 0 := BitVec.toNat_inj (y := 0)
  simp only [isSubnormal, Bool.and_eq_true, beq_iff_eq, bne_iff_ne, ne_eq, hfrac]

/-- A NaN and an infinity are not subnormal. -/
theorem isSubnormal_iff {x : F64} :
    x.isSubnormal = true ↔ ∃ s e f, x = .fin s e f ∧ e.val = 0 ∧ f ≠ 0 := by
  constructor
  case mp =>
    intro h
    cases x with
    | nan => cases h
    | inf s => cases h
    | fin s e f => exact ⟨s, e, f, rfl, isSubnormal_fin_iff.mp h⟩
  case mpr =>
    rintro ⟨s, e, f, rfl, h⟩
    exact isSubnormal_fin_iff.mpr h

/-- A finite real other than a zero is below zero when its sign bit is set. -/
theorem fin_lt_zero_eq_sign {s t : Bool} {e : Fin 2047} {f : BitVec 52} (hu : units e f ≠ 0) :
    (F64.fin s e f).lt (zero t) = s := by
  rw [Bool.eq_iff_iff]
  exact ⟨fun h => (fin_lt_zero h).1, fun hs => lt_zero_iff.mpr ⟨_, rfl, signed_neg_iff.mpr ⟨hs, hu⟩⟩⟩

/-- A subnormal is not a zero: its sign bit says which side of zero it is on. -/
theorem fin_lt_zero_of_isSubnormal {s t : Bool} {e : Fin 2047} {f : BitVec 52}
    (h : (F64.fin s e f).isSubnormal = true) : (F64.fin s e f).lt (zero t) = s :=
  fin_lt_zero_eq_sign fun hu => (isSubnormal_fin_iff.mp h).2 (units_eq_zero.mp hu).2

end F64

namespace Machine

open Config

/-- Flush to zero keeps the sign of a subnormal (R243). -/
theorem dnz_ftz_of_isSubnormal {s : Bool} {e : Fin 2047} {f : BitVec 52} (h : (F64.fin s e f).isSubnormal = true) :
    dnz .ftz (.fin s e f) = F64.zero s := by
  rw [dnz, if_pos h, c0, F64.fin_lt_zero_of_isSubnormal h]
  cases s <;> rfl

/-- The tiny value takes the sign of the subnormal it stands for (R243). -/
theorem dnz_tiny_of_isSubnormal {s : Bool} {e : Fin 2047} {f : BitVec 52} (h : (F64.fin s e f).isSubnormal = true)
    (v : F64) : dnz (.tiny v) (.fin s e f) = if s then v.neg else v := by
  rw [dnz, if_pos h, c0, F64.fin_lt_zero_of_isSubnormal h]

/-- Settles O52, by the sign of a subnormal for the two modes. -/
theorem subnormalFlush : Obligations.SubnormalFlush := by
  intro x v
  refine ⟨fun h mode => dnz_of_not_subnormal mode h, ?flushed, F64.isSubnormal_iff⟩
  case flushed =>
    rintro s e f rfl h
    exact ⟨dnz_ftz_of_isSubnormal h, dnz_tiny_of_isSubnormal h v⟩

/-- Settles O55: a non-zero word stays so because a word that equals its own shift is 0 (`xorshift32_ne_zero`). -/
theorem xorshiftNeverZero : Obligations.XorshiftNeverZero :=
  ⟨fun _ => rfl, fun _ => xorshift32_ne_zero, seeds_ne_zero⟩

end Machine
end Sys2Proof
end

section
/-!
The bypass wrapper and its crossfade (R291-R293), and what one chain leaves in each stage's part of a channel (R290, R296,
R298): the proofs of O40 to O44.
-/

namespace Sys2Proof
namespace F64

/-! ### Sums and products with a zero or a NaN -/

protected theorem add_comm (a b : F64) : a.add b = b.add a := by
  cases a with
  | nan => cases b <;> rfl
  | inf s =>
    cases b with
    | nan => rfl
    | inf t => cases s <;> cases t <;> rfl
    | fin t e f => rfl
  | fin s e f =>
    cases b with
    | nan => rfl
    | inf t => rfl
    | fin t e' f' => simp only [add, addUnits, Int.add_comm, Bool.and_comm]

theorem add_nan (a : F64) : a.add .nan = .nan := by rw [F64.add_comm, add]

/-- A finite real of no units is a zero. -/
theorem fin_eq_zero {e : Fin 2047} {f : BitVec 52} (h : units e f = 0) (s : Bool) : F64.fin s e f = zero s := by
  obtain ⟨he, rfl⟩ := units_eq_zero.mp h
  obtain rfl : e = 0 := Fin.ext he
  rfl

/-- A zero added to anything but `-0.0` leaves it alone, an infinity and a NaN included. -/
theorem zero_add_of_ne (t : Bool) {x : F64} (hx : x ≠ zero true) : (zero t).add x = x := by
  cases x with
  | nan => rfl
  | inf s => rfl
  | fin s e f =>
    by_cases hu : units e f = 0
    · rw [fin_eq_zero hu s] at hx ⊢
      have hs : s = false := Bool.eq_false_of_not_eq_true fun h => hx (congrArg zero h)
      rw [zero_add_zero, hs, Bool.and_false]
    · exact zero_add_fin s t hu

theorem exists_fin_of_isFinite {x : F64} (h : x.isFinite = true) : ∃ s e f, x = .fin s e f := by
  cases x with
  | nan => cases h
  | inf s => cases h
  | fin s e f => exact ⟨s, e, f, rfl⟩

/-- `inf * 0` and `NaN * 0` are NaN (R242). -/
theorem mul_zero_of_not_finite {x : F64} (h : x.isFinite = false) (t : Bool) : x.mul (zero t) = .nan := by
  cases x with
  | nan => rfl
  | inf s => rfl
  | fin s e f => cases h

end F64

namespace Machine

open Config

/-! ### The crossfade at the ends of the mix (R293) -/

theorem c1_sub_c1 : c1.sub c1 = F64.zero false := by decide +kernel

theorem c1_sub_c0 : c1.sub c0 = c1 := by decide +kernel

/-- At mix 1.0 the dry signal is added to the wet one times `+0.0`. -/
theorem crossfade_c1 (wet x : F64) : crossfade wet x c1 = (wet.mul (F64.zero false)).add x := by
  rw [crossfade, c1_sub_c1, c1, F64.mul_one]

/-- At mix 0.0 the wet signal is added to the dry one times `+0.0`. -/
theorem crossfade_c0 (wet x : F64) : crossfade wet x c0 = (x.mul (F64.zero false)).add wet := by
  rw [crossfade, c1_sub_c0, F64.add_comm, c1, F64.mul_one, c0]

/-- The sum at either end of the mix: the signal that passes is unchanged by a finite one times `+0.0`. -/
theorem mul_zero_add_of_finite {a b : F64} (ha : a.isFinite = true) (hb : b ≠ F64.zero true) :
    (a.mul (F64.zero false)).add b = b := by
  obtain ⟨s, e, f, rfl⟩ := F64.exists_fin_of_isFinite ha
  rw [F64.mul_zero_fin, F64.zero_add_of_ne _ hb]

/-- A `-0.0` that passes takes the sign of the finite signal that does not. -/
theorem mul_zero_add_neg_zero (s : Bool) (e : Fin 2047) (f : BitVec 52) :
    ((F64.fin s e f).mul (F64.zero false)).add (F64.zero true) = F64.zero s := by
  rw [F64.mul_zero_fin, F64.zero_add_zero, Bool.xor_false, Bool.and_true]

/-- A signal that is not finite spreads a NaN through the end of the mix that shuts it out. -/
theorem mul_zero_add_of_not_finite {a : F64} (ha : a.isFinite = false) (b : F64) :
    (a.mul (F64.zero false)).add b = .nan := by
  rw [F64.mul_zero_of_not_finite ha, F64.add]

/-- A NaN of the dry signal spreads at any mix. -/
theorem crossfade_nan (wet m : F64) : crossfade wet .nan m = .nan := F64.add_nan _

/-- Settles O42: at each end of the mix the crossfade is a sum of the signal that passes and a product with `+0.0`. -/
theorem crossfadeCorners : Obligations.CrossfadeCorners := by
  refine ⟨fun wet x hwet hx => ?dry, fun s e f => ?dryNegZero, fun wet x hx hwet => ?wet, fun s e f => ?wetNegZero,
    fun wet x hwet => ?wetNotFinite, crossfade_nan, fun wet s => ?dryInf⟩
  case dry => rw [crossfade_c1, mul_zero_add_of_finite hwet hx]
  case dryNegZero => rw [crossfade_c1, mul_zero_add_neg_zero]
  case wet => rw [crossfade_c0, mul_zero_add_of_finite hx hwet]
  case wetNegZero => rw [crossfade_c0, mul_zero_add_neg_zero]
  case wetNotFinite => rw [crossfade_c1, mul_zero_add_of_not_finite hwet]
  case dryInf => rw [crossfade_c0, mul_zero_add_of_not_finite rfl]

/-! ### The stages of the chain, one after the other (R290, R291) -/

theorem runStages_cons (e : Env) (k : Stage) (ks : List Stage) (s : ChanState) (x : F64) :
    runStages e (k :: ks) s x = runStages e ks (wrap e k s x).1 (wrap e k s x).2 := rfl

theorem runStages_nil (e : Env) (s : ChanState) (x : F64) : runStages e [] s x = (s, x) := rfl

/-- Settles O40, by running the list `chainOrder` stage by stage.  (The model has the name `chainOrder` for that list.) -/
theorem chainOrder_holds : Obligations.ChainOrder := by
  intro e s x
  simp only [chain, chainOrder, runStages_cons, runStages_nil, ChanState.meterIn, ChanState.meterOut]

/-- Settles O41: `wrap` runs the kernel, `nextMix` and `crossfade`, with the target and the fade coefficient spelled
out. -/
theorem bypassWrapper : Obligations.BypassWrapper := by
  intro e k s x
  unfold wrap nextMix bypassTarget fadeCoeff crossfade
  rfl

/-! ### One stage's part of a channel

A function `f` of a channel is stage `k`'s own when no other stage changes it.  After the chain it is then what stage `k`
made of it. -/

theorem runStages_of_notMem {α : Type} (f : ChanState → α) {e : Env} {k : Stage}
    (hf : ∀ j ≠ k, ∀ s x, f (wrap e j s x).1 = f s) {ks : List Stage} (hk : k ∉ ks) (s : ChanState) (x : F64) :
    f (runStages e ks s x).1 = f s := by
  induction ks generalizing s x with
  | nil => rfl
  | cons j js ih =>
    obtain ⟨hj, hjs⟩ := List.ne_and_not_mem_of_not_mem_cons hk
    rw [runStages_cons, ih hjs, hf j hj.symm]

theorem chain_of_own {α : Type} (f : ChanState → α) {e : Env} {k : Stage}
    (hf : ∀ j ≠ k, ∀ s x, f (wrap e j s x).1 = f s) (hout : ∀ t v, f (ChanState.meterOut t v) = f t)
    {ks js : List Stage} (horder : chainOrder = ks ++ k :: js) (hk : k ∉ js) (s : ChanState) (x : F64) :
    f (chain e s x).1 =
      f (wrap e k (runStages e ks (s.meterIn x) x).1 (runStages e ks (s.meterIn x) x).2).1 := by
  rw [chain, hout, horder, runStages_append, runStages_cons, runStages_of_notMem f hf hk]

/-- What the Control-Comp stage owns: its state and its meter (R298). -/
def ChanState.ccPart (t : ChanState) : ControlComp × F64 := (t.cc, t.m.ccgr)

/-- What the Low-Dynamic stage owns. -/
def ChanState.ldPart (t : ChanState) : LowDynamic × F64 := (t.ld, t.m.ldgr)

/-- What the Style-Comp stage owns. -/
def ChanState.scPart (t : ChanState) : StyleComp × F64 := (t.sc, t.m.scgr)

theorem wrap_ccPart (e : Env) (s : ChanState) (x : F64) :
    (wrap e .cc s x).1.ccPart =
      let r := (ccomp e (dnz e.cfg.denormMode x) s.cc).1
      (r, lin2db e.cfg.libm r.gain) := by
  simp only [ChanState.ccPart, wrap, kernel]

theorem wrap_ccPart_of_ne (e : Env) (j : Stage) (h : j ≠ .cc) (s : ChanState) (x : F64) :
    (wrap e j s x).1.ccPart = s.ccPart := by
  cases j with
  | cc => exact absurd rfl h
  | _ => simp only [ChanState.ccPart, wrap, kernel]

theorem wrap_ldPart (e : Env) (s : ChanState) (x : F64) :
    (wrap e .ld s x).1.ldPart =
      let r := ldyn e (dnz e.cfg.denormMode x) s.ld
      (r.1, r.2.2) := by
  simp only [ChanState.ldPart, wrap, kernel]

theorem wrap_ldPart_of_ne (e : Env) (j : Stage) (h : j ≠ .ld) (s : ChanState) (x : F64) :
    (wrap e j s x).1.ldPart = s.ldPart := by
  cases j with
  | ld => exact absurd rfl h
  | _ => simp only [ChanState.ldPart, wrap, kernel]

theorem wrap_scPart (e : Env) (s : ChanState) (x : F64) :
    (wrap e .sc s x).1.scPart =
      let r := (scomp e (dnz e.cfg.denormMode x) s.sc).1
      (r, scMeter e r) := by
  simp only [ChanState.scPart, wrap, kernel]

theorem wrap_scPart_of_ne (e : Env) (j : Stage) (h : j ≠ .sc) (s : ChanState) (x : F64) :
    (wrap e j s x).1.scPart = s.scPart := by
  cases j with
  | sc => exact absurd rfl h
  | _ => simp only [ChanState.scPart, wrap, kernel]

/-! ### The gain meters after one sample (R65, R298) -/

/-- The Control-Comp's meter is its new gain in dB. -/
theorem chain_ccgr (e : Env) (s : ChanState) (x : F64) :
    (chain e s x).1.m.ccgr = lin2db e.cfg.libm (chain e s x).1.cc.gain := by
  have hpart := chain_of_own ChanState.ccPart (wrap_ccPart_of_ne e) (fun _ _ => rfl)
    (ks := [.pi, .fl]) (js := [.ld, .eq, .sc, .co, .os, .ov]) rfl (by decide) s x
  rw [wrap_ccPart, ChanState.ccPart, Prod.mk.injEq] at hpart
  obtain ⟨hcc, hccgr⟩ := hpart
  rw [hccgr, hcc]

/-- The first three stages leave Low-Dynamic's state to it. -/
theorem runStages_before_ld (e : Env) (s : ChanState) (x : F64) :
    (runStages e [.pi, .fl, .cc] (s.meterIn x) x).1.ld = s.ld :=
  runStages_of_notMem ChanState.ld (fun j h t y => congrArg Prod.fst (wrap_ldPart_of_ne e j h t y)) (by decide)
    (s.meterIn x) x

/-- Low-Dynamic runs on what the first three stages let through, from the state the sample found. -/
theorem chain_ldPart (e : Env) (s : ChanState) (x : F64) :
    (chain e s x).1.ldPart =
      let r := ldyn e (dnz e.cfg.denormMode (runStages e [.pi, .fl, .cc] (s.meterIn x) x).2) s.ld
      (r.1, r.2.2) := by
  rw [chain_of_own ChanState.ldPart (wrap_ldPart_of_ne e) (fun _ _ => rfl)
    (ks := [.pi, .fl, .cc]) (js := [.eq, .sc, .co, .os, .ov]) rfl (by decide) s x, wrap_ldPart, runStages_before_ld]

/-- The Style-Comp's meter is `METER_SC` of its new state. -/
theorem chain_scgr (e : Env) (s : ChanState) (x : F64) :
    (chain e s x).1.m.scgr = scMeter e (chain e s x).1.sc := by
  have hpart := chain_of_own ChanState.scPart (wrap_scPart_of_ne e) (fun _ _ => rfl)
    (ks := [.pi, .fl, .cc, .ld, .eq]) (js := [.co, .os, .ov]) rfl (by decide) s x
  rw [wrap_scPart, ChanState.scPart, Prod.mk.injEq] at hpart
  obtain ⟨hsc, hscgr⟩ := hpart
  rw [hscgr, hsc]

theorem Env.code_eq_zero_iff (e : Env) (r : PReg) : e.code r = 0 ↔ e.act.param.get r = 0 :=
  BitVec.toNat_inj (y := 0)

/-- `METER_SC` (R542) by the selector register itself. -/
theorem scMeter_eq (e : Env) (st : StyleComp) :
    scMeter e st = lin2db e.cfg.libm (if e.act.param.scAlgo = 0 then st.warm.gain else st.punch.gain) := by
  simp only [scMeter, Env.code_eq_zero_iff, ParamBank.get]

/-- Settles O43: each meter belongs to one stage, or to the chain itself. -/
theorem metersOfOneSample : Obligations.MetersOfOneSample := by
  intro e s x
  have hpart := chain_ldPart e s x
  rw [ChanState.ldPart, Prod.mk.injEq] at hpart
  obtain ⟨hld, hldgr⟩ := hpart
  exact ⟨chain_ccgr e s x, hldgr, hld, (chain_scgr e s x).trans (scMeter_eq e _), chain_inpk e s x, chain_outpk e s x⟩

/-! ### Kernels that are not selected (R296) -/

/-- SAT_PI writes the state of the algorithm it runs only. -/
theorem satPi_holds_unselected (e : Env) (x : F64) (st : PiSat) :
    (e.code .piAlgo ≠ 1 → (satPi e x st).1.purePrev = st.purePrev) ∧
    (e.code .piAlgo ≠ 2 → (satPi e x st).1.tape = st.tape) ∧
    (e.code .piAlgo < 3 → (satPi e x st).1.tubePrev = st.tubePrev) := by
  unfold satPi
  dsimp only
  split
  next => exact ⟨fun _ => rfl, fun _ => rfl, fun _ => rfl⟩
  next hpure => exact ⟨fun h => absurd hpure h, fun _ => rfl, fun _ => rfl⟩
  next htape => exact ⟨fun _ => rfl, fun h => absurd htape h, fun _ => rfl⟩
  next _ hclean hpure htape =>
    rw [imp_false] at hclean hpure htape
    exact ⟨fun _ => rfl, fun _ => rfl, fun h => by omega⟩

/-- SAT_OS writes the state of the algorithm it runs only. -/
theorem satOs_holds_unselected (e : Env) (x : F64) (st : OsSat) :
    (e.code .osAlgo ≠ 1 → (satOs e x st).1.purePrev = st.purePrev) ∧
    (e.code .osAlgo ≠ 2 → (satOs e x st).1.tape = st.tape) ∧
    (e.code .osAlgo ≠ 3 → (satOs e x st).1.tubePrev = st.tubePrev) ∧
    (e.code .osAlgo ≠ 4 → (satOs e x st).1.hardClipped = st.hardClipped) ∧
    (e.code .osAlgo < 5 → (satOs e x st).1.softLast = st.softLast) := by
  unfold satOs
  dsimp only
  split
  next => exact ⟨fun _ => rfl, fun _ => rfl, fun _ => rfl, fun _ => rfl, fun _ => rfl⟩
  next hpure => exact ⟨fun h => absurd hpure h, fun _ => rfl, fun _ => rfl, fun _ => rfl, fun _ => rfl⟩
  next htape => exact ⟨fun _ => rfl, fun h => absurd htape h, fun _ => rfl, fun _ => rfl, fun _ => rfl⟩
  next htube => exact ⟨fun _ => rfl, fun _ => rfl, fun h => absurd htube h, fun _ => rfl, fun _ => rfl⟩
  next hhard => exact ⟨fun _ => rfl, fun _ => rfl, fun _ => rfl, fun h => absurd hhard h, fun _ => rfl⟩
  next _ hclean hpure htape htube hhard =>
    rw [imp_false] at hclean hpure htape htube hhard
    exact ⟨fun _ => rfl, fun _ => rfl, fun _ => rfl, fun _ => rfl, fun h => by omega⟩

/-- A filter of one section holds the other (R405). -/
theorem cascade_one_holds (mode : DenormMode) (q : Coeffs) (x : F64) (a b : Biquad) :
    (cascade mode false q x a b).1.2 = b := rfl

theorem filt_holds_unselected (e : Env) (x : F64) (st : Filters) :
    (e.code .hpfSlope = 0 → (filt e x st).1.hpf1 = st.hpf1) ∧
    (e.code .lpfSlope = 0 → (filt e x st).1.lpf1 = st.lpf1) := by
  refine ⟨fun h => ?hpf, fun h => ?lpf⟩
  case hpf => simp only [filt, h, Nat.reduceBEq, cascade_one_holds]
  case lpf => simp only [filt, h, Nat.reduceBEq, cascade_one_holds]

/-- Only the selected compressor runs (R530). -/
theorem scomp_holds_unselected (e : Env) (x : F64) (st : StyleComp) :
    (e.code .scAlgo = 0 → (scomp e x st).1.punch = st.punch) ∧
    (e.code .scAlgo ≠ 0 → (scomp e x st).1.warm = st.warm) := by
  unfold scomp
  dsimp only
  split
  next hwarm => exact ⟨fun _ => rfl, fun h => absurd hwarm h⟩
  next hpunch => exact ⟨fun h => absurd h hpunch, fun _ => rfl⟩

theorem adhp_purePrev (cfg : Params) (sr : F64) (p : Nat) (x : F64) (st : Console) :
    (adhp cfg sr p x st).1.purePrev = st.purePrev := by
  unfold adhp
  dsimp only
  split <;> rfl

/-- The pipeline of a hardware profile leaves Pure's `prev` alone (R573). -/
theorem pipe_purePrev (cfg : Params) (sr : F64) (p : Nat) (x : F64) (st : Console) :
    (pipe cfg sr p x st).1.purePrev = st.purePrev :=
  adhp_purePrev cfg sr p x st

theorem cons_of_clean {e : Env} (h : e.code .coProfile = 0) (x : F64) (st : Console) : cons e x st = (st, x) :=
  if_pos h

/-- Profile Pure writes its own `prev` only (R572). -/
theorem cons_of_pure {e : Env} (h : e.code .coProfile = 1) (x : F64) (st : Console) :
    ∃ v y, cons e x st = ({ st with purePrev := v }, y) := by
  simp only [cons, h, Nat.one_ne_zero, if_false, if_true]
  exact ⟨_, _, rfl⟩

theorem cons_of_pipe {e : Env} (h0 : e.code .coProfile ≠ 0) (h1 : e.code .coProfile ≠ 1) (x : F64) (st : Console) :
    cons e x st = pipe e.cfg e.sr (e.code .coProfile) x st := by
  simp only [cons, h0, h1, if_false]

/-- The Console runs Pure or the pipeline, or neither (R570). -/
theorem cons_holds_unselected (e : Env) (x : F64) (st : Console) :
    (e.code .coProfile = 0 → (cons e x st).1 = st) ∧
    (e.code .coProfile ≠ 1 → (cons e x st).1.purePrev = st.purePrev) ∧
    (e.code .coProfile < 2 → (cons e x st).1.rng = st.rng ∧ (cons e x st).1.hpFlip = st.hpFlip ∧
      (cons e x st).1.lpA = st.lpA ∧ (cons e x st).1.lpB = st.lpB ∧ (cons e x st).1.h1 = st.h1 ∧
      (cons e x st).1.h2 = st.h2) := by
  by_cases hclean : e.code .coProfile = 0
  · rw [cons_of_clean hclean]
    exact ⟨fun _ => rfl, fun _ => rfl, fun _ => ⟨rfl, rfl, rfl, rfl, rfl, rfl⟩⟩
  by_cases hpure : e.code .coProfile = 1
  · obtain ⟨v, y, hcons⟩ := cons_of_pure hpure x st
    rw [hcons]
    exact ⟨fun h => absurd h hclean, fun h => absurd hpure h, fun _ => ⟨rfl, rfl, rfl, rfl, rfl, rfl⟩⟩
  · rw [cons_of_pipe hclean hpure]
    exact ⟨fun h => absurd h hclean, fun _ => pipe_purePrev _ _ _ _ _, fun h => by omega⟩

/-- Settles O44, kernel by kernel. -/
theorem deselectedKernelsHold : Obligations.DeselectedKernelsHold := fun e x =>
  ⟨satPi_holds_unselected e x, satOs_holds_unselected e x, filt_holds_unselected e x, scomp_holds_unselected e x,
    cons_holds_unselected e x⟩

end Machine
end Sys2Proof
end

section
/-! The flip shelf (R492): the proof of O51. -/

namespace Sys2Proof.Machine

open Config

/-- With the flip bit 0 bank A runs. -/
theorem shelfStep_of_flip_false {st : Shelf} (h : st.flip = false) (mode : DenormMode) (q : Coeffs) (x : F64) :
    shelfStep mode q x st =
      ({ st with bankA := (biq mode st.bankA q x).1, flip := true }, (biq mode st.bankA q x).2) := by
  simp only [shelfStep, h, Bool.false_eq_true, if_false]

/-- With the flip bit 1 bank B runs. -/
theorem shelfStep_of_flip_true {st : Shelf} (h : st.flip = true) (mode : DenormMode) (q : Coeffs) (x : F64) :
    shelfStep mode q x st =
      ({ st with bankB := (biq mode st.bankB q x).1, flip := false }, (biq mode st.bankB q x).2) := by
  simp only [shelfStep, h, if_true]

@[simp] theorem shelfStep_flip (mode : DenormMode) (q : Coeffs) (x : F64) (st : Shelf) :
    (shelfStep mode q x st).1.flip = !st.flip := by
  cases h : st.flip with
  | false => rw [shelfStep_of_flip_false h, Bool.not_false]
  | true => rw [shelfStep_of_flip_true h, Bool.not_true]

/-- The bit is back after two samples, whatever coefficients each of them used. -/
theorem shelfStep_shelfStep_flip (mode : DenormMode) (q r : Coeffs) (x y : F64) (st : Shelf) :
    (shelfStep mode r y (shelfStep mode q x st).1).1.flip = st.flip := by
  rw [shelfStep_flip, shelfStep_flip, Bool.not_not]

/-- Settles O51, by the step's equation for each value of the flip bit. -/
theorem shelfBanksAlternate : Obligations.ShelfBanksAlternate := by
  intro mode q x y st
  refine ⟨fun hA => ?bankA, fun hB => ?bankB, shelfStep_flip mode q x st, shelfStep_shelfStep_flip mode q q x y st⟩
  case bankA =>
    rw [shelfStep_of_flip_false hA]
    exact ⟨rfl, rfl, rfl⟩
  case bankB =>
    rw [shelfStep_of_flip_true hB]
    exact ⟨rfl, rfl, rfl⟩

end Sys2Proof.Machine
end

section
/-! Exceptions (R700-R706, R709, R710): the proofs of O14, O16, O23, O29 and O35. -/

namespace Sys2Proof

/-- One number is not below another exactly when a NaN stands on one side or the order is the other way (R17). -/
theorem F64.lt_eq_false_iff {a b : F64} : a.lt b = false ↔ a.isNaN = true ∨ b.isNaN = true ∨ b.le a = true := by
  cases ha : a.isNaN with
  | true =>
    cases a with
    | nan => simp only [F64.nan_lt, true_or]
    | inf s => cases ha
    | fin s e f => cases ha
  | false =>
    cases hb : b.isNaN with
    | true =>
      cases b with
      | nan => simp only [F64.lt_nan, true_or, or_true]
      | inf s => cases hb
      | fin s e f => cases hb
    | false =>
      obtain ⟨i, hi⟩ := F64.exists_rank ha
      obtain ⟨j, hj⟩ := F64.exists_rank hb
      simp only [F64.lt, F64.le, hi, hj, decide_eq_false_iff_not, decide_eq_true_eq, Bool.false_eq_true, false_or,
        Int.not_lt]

namespace Machine

open Config

/-! ### SMP before configuration (R704) -/

/-- Settles O35. -/
theorem smpNotConfigured : Obligations.SmpNotConfigured := fun _ c d h => exec_smpOf_of_notCfg h c d

/-! ### Rates that SETSR rejects (R703) -/

/-- The rates refused are the ones that are not finite and positive. -/
theorem rateAccepted_eq_false_iff (r : F64) :
    rateAccepted r = false ↔ r.isNaN = true ∨ r.le c0 = true ∨ r = .inf false := by
  have hc0 : c0.isNaN = false := rfl
  simp only [rateAccepted, Bool.and_eq_false_iff, F64.lt_eq_false_iff, hc0, Bool.false_eq_true, false_or,
    Bool.not_eq_false', beq_iff_eq, or_assoc]

/-- Settles O29. -/
theorem setsrRejected : Obligations.SetsrRejected := by
  intro s d
  have hrejected := rateAccepted_eq_false_iff (real d)
  exact ⟨hrejected.symm, fun h => congrArg _ (setsrWith_of_rejected params s (hrejected.mpr h))⟩

/-! ### Writes that WRREG refuses (R701, R702, R706) -/

/-- A register of bank 3 is one of R53's. -/
theorem RegName.eq_stat_of_bank {n : RegName} (h : n.bank = 3) : ∃ r, n = .stat r := by
  cases n with
  | param r => cases h
  | ofs c r => cases c <;> cases h
  | stat r => exact ⟨r, rfl⟩

/-- WRREG of a bank-3 address but STATUS, whether R53 lists a register there or not. -/
theorem execWrreg_of_readOnly {i : BitVec 6} (hi : i ≠ 0x01) (d : Word) (s : State) :
    execWrreg 3 i d s = .next (s.raise .badReg (encodeWord (.wrreg 3 i d))) := by
  cases hn : regName 3 i with
  | none => exact execWrreg_of_reserved d s hn
  | some n =>
    obtain ⟨hbank, hidx⟩ := regName_eq_some hn
    obtain ⟨r, rfl⟩ := RegName.eq_stat_of_bank hbank
    have hr : r ≠ .status := fun h => hi (by rw [← hidx, h]; rfl)
    exact execWrreg_of_error hn (s.regWrite_stat_of_ne hr d)

/-- Settles O23, by the address and then by the kind of the register. -/
theorem wrregErrors : Obligations.WrregErrors := by
  refine ⟨fun s b i d h => ?badReg, fun s r d hd => ?param, fun s c r d hd => ?offset⟩
  case badReg =>
    rcases h with hn | ⟨rfl, hi⟩
    · exact execWrreg_of_reserved d s hn
    · exact execWrreg_of_readOnly hi d s
  case param =>
    have hw : s.regWrite (.param r) d = .error .badVal := by
      simp only [State.regWrite, hd, Bool.false_eq_true, if_false]
    exact execWrreg_of_error (regName_param r) hw
  case offset =>
    have hw : s.regWrite (.ofs c r) d = .error .badVal := by
      simp only [State.regWrite, hd, Bool.false_eq_true, if_false]
    exact execWrreg_of_error (regName_bank_idx (.ofs c r)) hw

/-! ### The common error path (R705) -/

/-- An error sets the bit of its cause code and no other. -/
theorem setError_getLsbD (errs : BitVec 5) (e : CmdError) {k : Nat} (hk : k < 5) :
    (setError errs e).getLsbD k = (errs.getLsbD k || decide (k + 1 = e.code)) := by
  have hbit : ∀ j : Fin 5, e.bit.getLsbD j = decide (j.val + 1 = e.code) := by cases e <;> decide
  rw [setError, BitVec.getLsbD_or, hbit ⟨k, hk⟩]

/-- STATUS after an error, bit by bit: the error's bit is set and every other one is as it was. -/
theorem State.raise_status_getLsbD_eq (s : State) (e : CmdError) (cw : CmdWord) (n : Nat) :
    ((s.raise e cw).regRead (.stat .status)).getLsbD n =
      ((s.regRead (.stat .status)).getLsbD n || decide (n = e.code)) := by
  have hcode : 0 < e.code ∧ e.code ≤ 5 := by cases e <;> decide
  rw [State.status_getLsbD, State.status_getLsbD, State.raise_configured, State.raise_errs]
  split_ifs with h0 h5
  · rw [decide_eq_false (by omega), Bool.or_false]
  · rw [setError_getLsbD _ _ (by omega), Nat.sub_add_cancel (by omega)]
  · rw [decide_eq_false (by omega), Bool.or_false]

/-- A command that answers with an error took the common error path. -/
theorem CommandEffect.eq_raise_of_err {i : Instr} {s t : State} {w : Word} (h : CommandEffect s i t)
    (herr : t.resp = some ⟨.err, w⟩) : ∃ e, t = s.raise e (encodeWord i) := by
  cases h with
  | raised i e => exact ⟨e, rfl⟩
  | sampled | nop | read | wroteParam | wroteOfs | wroteStatus | rateSet | rateKept | channelsReset | latched =>
    cases herr

/-- Only a WRREG to STATUS clears a bit of STATUS. -/
theorem CommandEffect.wrreg_of_status_cleared {i : Instr} {s t : State} {n : Nat} (h : CommandEffect s i t)
    (hs : (s.regRead (.stat .status)).getLsbD n = true) (ht : (t.regRead (.stat .status)).getLsbD n = false) :
    ∃ v, i = .wrreg 3 0x01 v := by
  rw [State.status_getLsbD] at hs ht
  split_ifs at hs ht with h0 h5
  · rw [h.configured_iff.mpr (.inl hs)] at ht
    cases ht
  · obtain ⟨v, hi, -⟩ := h.wrreg_of_errs_cleared hs ht
    exact ⟨v, hi⟩

/-- Settles O14. -/
theorem errorPathIsPrecise : Obligations.ErrorPathIsPrecise := by
  intro i s t hexec
  have heffect := commandEffect_of_exec hexec
  constructor
  · rintro ⟨w, herr⟩
    obtain ⟨e, rfl⟩ := heffect.eq_raise_of_err herr
    exact ⟨e, rfl, fun n _ => s.raise_status_getLsbD_eq e _ n⟩
  · rintro ⟨n, hs, ht⟩
    exact heffect.wrreg_of_status_cleared hs ht

/-! ### Sticky bits and ERRCMD do not block a command (R710)

`State.withErrors` puts other error bits and another ERRCMD in a state.  Every command but a read of those two commutes
with it, up to the error bits and the ERRCMD that the command leaves. -/

/-- The state with the error bits and the ERRCMD given. -/
def State.withErrors (s : State) (es : BitVec 5) (ec : Word) : State := { s with errs := es, errCmd := ec }

/-- A command that leaves `t` from `s` leaves `t`, but for the error bits and ERRCMD, from `s` with other ones. -/
def CommutesWithErrors (f : State → Host.Outcome State Fault Refusal) (s : State) : Prop :=
  ∃ t, f s = .next t ∧ ∀ es ec, ∃ es' ec', f (s.withErrors es ec) = .next (t.withErrors es' ec')

theorem commutesWithErrors_of_next {g : State → State} {s : State}
    (h : ∀ es ec, ∃ es' ec', g (s.withErrors es ec) = (g s).withErrors es' ec') :
    CommutesWithErrors (fun u => .next (g u)) s :=
  ⟨g s, rfl, fun es ec => (h es ec).imp fun _ => Exists.imp fun _ => congrArg _⟩

/-- An error raised whatever the error bits are. -/
theorem commutesWithErrors_of_raise {f : State → Host.Outcome State Fault Refusal} {s : State} (e : CmdError)
    (cw : CmdWord) (hs : f s = .next (s.raise e cw))
    (h : ∀ es ec, f (s.withErrors es ec) = .next ((s.withErrors es ec).raise e cw)) : CommutesWithErrors f s :=
  ⟨_, hs, fun es ec => ⟨setError es e, cw.setWidth 64, h es ec⟩⟩

theorem State.regRead_withErrors (s : State) (es : BitVec 5) (ec : Word) {n : RegName} (hstatus : n ≠ .stat .status)
    (herrCmd : n ≠ .stat .errCmd) : (s.withErrors es ec).regRead n = s.regRead n := by
  cases n with
  | param r => rfl
  | ofs c r => cases c <;> rfl
  | stat r =>
    cases r with
    | status => exact absurd rfl hstatus
    | errCmd => exact absurd rfl herrCmd
    | id | sr => rfl
    | inpk c | outpk c | ccgr c | ldgr c | scgr c => cases c <;> rfl

theorem State.regWrite_withErrors {s t : State} {n : RegName} {d : Word} (h : s.regWrite n d = .ok t) (es : BitVec 5)
    (ec : Word) : ∃ es', (s.withErrors es ec).regWrite n d = .ok (t.withErrors es' ec) := by
  rcases s.regWrite_cases n d with ⟨r, rfl, hd, hw⟩ | ⟨c, r, rfl, hd, hw⟩ | ⟨rfl, hw⟩ | ⟨-, hw⟩ | ⟨-, hw⟩ | ⟨-, hw⟩ <;>
    rw [hw] at h <;> cases h
  · exact ⟨es, by simp only [State.regWrite, hd, if_true]; rfl⟩
  · exact ⟨es, by simp only [State.regWrite, hd, if_true]; cases c <;> rfl⟩
  · exact ⟨clearErrors es d, rfl⟩

theorem commutesWithErrors_wrreg (b : BitVec 2) (x : BitVec 6) (d : Word) (s : State) :
    CommutesWithErrors (execWrreg b x d) s := by
  cases hn : regName b x with
  | none => exact commutesWithErrors_of_raise _ _ (execWrreg_of_reserved d s hn) fun _ _ => execWrreg_of_reserved d _ hn
  | some n =>
    cases hw : s.regWrite n d with
    | ok u =>
      refine ⟨_, execWrreg_of_ok hn hw, fun es ec => ?_⟩
      obtain ⟨es', hw'⟩ := State.regWrite_withErrors hw es ec
      exact ⟨es', ec, execWrreg_of_ok hn hw'⟩
    | error e =>
      exact commutesWithErrors_of_raise e _ (execWrreg_of_error hn hw) fun _ _ =>
        execWrreg_of_error hn (State.regWrite_error_of_error hw _)

theorem commutesWithErrors_rdreg {b : BitVec 2} {x : BitVec 6} (hstatus : regName b x ≠ some (.stat .status))
    (herrCmd : regName b x ≠ some (.stat .errCmd)) (s : State) : CommutesWithErrors (execRdreg b x) s := by
  cases hn : regName b x with
  | none => exact commutesWithErrors_of_raise _ _ (execRdreg_of_reserved s hn) fun _ _ => execRdreg_of_reserved _ hn
  | some n =>
    rw [hn, ne_eq, Option.some.injEq] at hstatus herrCmd
    refine ⟨_, execRdreg_of_exists s hn, fun es ec => ⟨es, ec, ?_⟩⟩
    rw [execRdreg_of_exists _ hn, s.regRead_withErrors es ec hstatus herrCmd]
    rfl

theorem setsrWith_withErrors (cfg : Params) (d : Word) (s : State) (es : BitVec 5) (ec : Word) :
    ∃ es' ec', setsrWith cfg d (s.withErrors es ec) = (setsrWith cfg d s).withErrors es' ec' := by
  cases hd : rateAccepted (real d) with
  | false =>
    rw [setsrWith_of_rejected cfg _ hd, setsrWith_of_rejected cfg _ hd]
    exact ⟨_, _, rfl⟩
  | true =>
    cases hc : rateChanged s (real d) with
    | false =>
      rw [setsrWith_of_same cfg s hd hc, setsrWith_of_same cfg (s.withErrors es ec) hd hc]
      exact ⟨es, ec, rfl⟩
    | true =>
      rw [setsrWith_of_changed cfg s hd hc, setsrWith_of_changed cfg (s.withErrors es ec) hd hc]
      exact ⟨es, ec, rfl⟩

theorem sampleWith_withErrors (cfg : Params) (c : Chan) (x : F64) (s : State) (es : BitVec 5) (ec : Word) :
    sampleWith cfg c x (s.withErrors es ec) = (sampleWith cfg c x s).withErrors es ec := by
  cases c <;> rfl

theorem smpWith_withErrors (cfg : Params) (ch : BitVec 8) (d : Word) (s : State) (es : BitVec 5) (ec : Word) :
    ∃ es' ec', smpWith cfg ch d (s.withErrors es ec) = (smpWith cfg ch d s).withErrors es' ec' := by
  cases hch : Chan.ofCh ch with
  | none =>
    rw [smpWith_of_noChan cfg d _ hch, smpWith_of_noChan cfg d _ hch]
    exact ⟨_, _, rfl⟩
  | some c =>
    cases hs : s.configured with
    | false =>
      rw [smpWith_of_notCfg cfg d s hch hs, smpWith_of_notCfg cfg d (s.withErrors es ec) hch hs]
      exact ⟨_, _, rfl⟩
    | true =>
      rw [smpWith_of_configured cfg d s hch hs, smpWith_of_configured cfg d (s.withErrors es ec) hch hs]
      exact ⟨es, ec, sampleWith_withErrors cfg c (real d) s es ec⟩

/-- Every command but a read of STATUS or ERRCMD. -/
theorem exec_commutesWithErrors {i : Instr} (hstatus : i ≠ .rdreg 3 0x01) (herrCmd : i ≠ .rdreg 3 0x03) (s : State) :
    CommutesWithErrors (exec i) s := by
  cases i with
  | nop => exact commutesWithErrors_of_next (g := fun u => u.ok 0) fun es ec => ⟨es, ec, rfl⟩
  | wrreg b x d => exact commutesWithErrors_wrreg b x d s
  | rdreg b x =>
    have hname {r : SReg} (hne : Instr.rdreg b x ≠ .rdreg 3 r.idx) : regName b x ≠ some (.stat r) := fun hn => by
      obtain ⟨rfl, rfl⟩ := regName_eq_some hn
      exact hne rfl
    exact commutesWithErrors_rdreg (hname hstatus) (hname herrCmd) s
  | setsr d => exact commutesWithErrors_of_next (setsrWith_withErrors params d s)
  | reset => exact commutesWithErrors_of_next (g := resetWith params) fun es ec => ⟨es, ec, rfl⟩
  | block => exact commutesWithErrors_of_next (g := fun u => u.latch.ok 0) fun es ec => ⟨es, ec, rfl⟩
  | smp ch d => exact commutesWithErrors_of_next (smpWith_withErrors params ch d s)

/-- Settles O16: the next states differ in the error bits and ERRCMD alone. -/
theorem stickyBitsDoNotBlock : Obligations.StickyBitsDoNotBlock := by
  intro i s t es ec hexec hstatus herrCmd
  obtain ⟨u, hu, hcommutes⟩ := exec_commutesWithErrors hstatus herrCmd s
  rw [hexec] at hu
  cases hu
  obtain ⟨es', ec', hexec'⟩ := hcommutes es ec
  exact ⟨t.withErrors es' ec', hexec', rfl, ⟨rfl, rfl⟩, rfl, rfl, rfl, rfl, rfl, rfl⟩

end Machine
end Sys2Proof
end

section
/-! Power-on reset and SETSR (R205, R740-R742): the proofs of O1, O2, O12 and O28. -/

namespace Sys2Proof

/-! ### Rates that compare equal (R17, R205) -/

/-- A finite magnitude has at most 53 bits above those its exponent shifts out. -/
theorem F64.units_lt_two_pow (x : Fin 2047) (f : BitVec 52) : F64.units x f < 2 ^ (53 + (x.val - 1)) := by
  have hf := f.isLt
  have hscale : 0 < 2 ^ (x.val - 1) := Nat.two_pow_pos _
  rw [F64.units, pow_add]
  split
  · calc f.toNat < 2 ^ 53 := by omega
      _ ≤ 2 ^ 53 * 2 ^ (x.val - 1) := Nat.le_mul_of_pos_right _ hscale
  · exact Nat.mul_lt_mul_of_pos_right (by omega) hscale

/-- A finite magnitude is below the one an infinity has in the order of R17. -/
theorem F64.units_lt_inf (x : Fin 2047) (f : BitVec 52) : F64.units x f < 2 ^ 2098 :=
  (F64.units_lt_two_pow x f).trans_le (pow_le_pow_right₀ one_le_two (by omega))

/-- Signed numbers of units are equal, zero apart, when the signs and the numbers are. -/
theorem F64.signed_inj {s t : Bool} {u v : Nat} (hu : u ≠ 0) (h : F64.signed s u = F64.signed t v) :
    s = t ∧ u = v := by
  cases s <;> cases t <;> simp only [F64.signed, Bool.false_eq_true, if_true, if_false] at h
  · exact ⟨rfl, by omega⟩
  · omega
  · omega
  · exact ⟨rfl, by omega⟩

/-- A finite real that is not a zero compares equal to itself alone. -/
theorem F64.eq_of_fin_feq {s : Bool} {x : Fin 2047} {f : BitVec 52} {b : F64} (hu : F64.units x f ≠ 0)
    (h : (F64.fin s x f).feq b = true) : F64.fin s x f = b := by
  cases b with
  | nan => rw [F64.feq_nan] at h; cases h
  | inf t =>
    simp only [F64.feq, F64.rank, decide_eq_true_eq] at h
    exact absurd (F64.signed_inj hu h).2 (F64.units_lt_inf x f).ne
  | fin t y g =>
    simp only [F64.feq, F64.rank, decide_eq_true_eq] at h
    obtain ⟨rfl, hunits⟩ := F64.signed_inj hu h
    rw [← F64.round_units s x f Nat.one_pos, hunits, F64.round_units s y g Nat.one_pos]

namespace Machine

open Config

/-! ### Channel reset (R60, R741) -/

theorem Mixes.bypassed_get (k : Stage) : Mixes.bypassed.get k = c1 := by
  cases k <;> simp only [Mixes.get, Mixes.bypassed]

theorem targetMixes_get (act : ActiveSet) (k : Stage) : (targetMixes act).get k = bypassTarget act k := by
  cases k <;> simp only [Mixes.get, targetMixes]

/-- A reset channel is at the reset column of R60 as `ChanState.AtReset` spells it out. -/
theorem ChanState.reset_atReset (cfg : Params) (c : Chan) (len : Nat) (mix : Mixes) (epoch : Nat) :
    (ChanState.reset cfg c len mix epoch).AtReset (tapePhase0 cfg c) (tapeSeedPi cfg c) (tapeSeedOs cfg c)
      (coSeed cfg c) len := by
  have hbiquad : Biquad.reset.AtReset := ⟨rfl, rfl⟩
  have hshelf : Shelf.reset.AtReset := ⟨hbiquad, hbiquad, rfl⟩
  have htape (phase : F64) (seed : BitVec 32) : (Tape.reset len phase seed).AtReset len phase seed :=
    ⟨rfl, fun _ => rfl, rfl, rfl, rfl, hbiquad, rfl⟩
  simp only [ChanState.AtReset, ChanState.reset, Meters.reset, hbiquad, hshelf, htape, and_self]

theorem State.resetChannels_chan (s : State) (cfg : Params) (c : Chan) : (s.resetChannels cfg).chan c =
    ChanState.reset cfg c (tapeBuf cfg (real s.sr)) (targetMixes s.act) (s.chan c).epoch := by
  cases c <;> rfl

/-- RESET_CHANNELS leaves each channel at the reset column, for the rate in force and the latched bypass flags. -/
theorem State.resetChannels_chanReset (s : State) (c : Chan) :
    (s.resetChannels params).ChanReset c s.act (real s.sr) := by
  rw [State.ChanReset, State.resetChannels_chan]
  exact ⟨ChanState.reset_atReset _ _ _ _ _, fun k => targetMixes_get s.act k⟩

/-- The response is no part of a channel's reset. -/
theorem State.ChanReset.ok {s : State} {c : Chan} {act : ActiveSet} {sr : F64} (h : s.ChanReset c act sr) (rd : Word) :
    (s.ok rd).ChanReset c act sr := by
  rw [State.ChanReset, State.ok_chan]
  exact h

/-! ### Power-on reset (R740) -/

theorem step_of_port_nil {s : State} (hport : s.port = []) : step s = .next s := by
  simp only [step, hport]

theorem step_of_powerOn {s : State} {rest : List Event} (hport : s.port = .powerOn :: rest) :
    step s = .next (s.restart rest) := by
  simp only [step, hport]

/-- A restart of the block as power-on leaves it changes nothing. -/
theorem State.restart_reset : State.reset.restart [] = State.reset := rfl

theorem State.reset_chan (c : Chan) :
    State.reset.chan c = ChanState.reset params c (tapeBuf params c0) Mixes.bypassed 0 := by
  cases c <;> rfl

/-- `TAPE_BUF(0.0)` is two cells (R61). -/
theorem tapeBuf_c0 : tapeBuf params c0 = 2 := by
  decide +kernel

/-- Before any sample a meter reads 0, and so does every other register of bank 3 but ID. -/
theorem State.reset_regRead_stat (r : SReg) : State.reset.regRead (.stat r) = if r = .id then idWord else 0 := by
  cases r with
  | id | status | sr | errCmd => rfl
  | inpk c | outpk c | ccgr c | ldgr c | scgr c => cases c <;> rfl

theorem State.reset_regRead_ofs (c : Chan) (r : OReg) : State.reset.regRead (.ofs c r) = 0 := by
  cases c <;> cases r <;> rfl

/-- What R47's row of a register says: its address, and its reset value. -/
def PReg.resetRow (r : PReg) : BitVec 6 × Word := (r.idx, ParamBank.reset.get r)

/-- At the address of each row the block reads the row's reset value. -/
theorem State.reset_regRead_resetRow : ∀ p ∈ PReg.all.map PReg.resetRow,
    (regName 0 p.1).map State.reset.regRead = some p.2 := by
  rw [List.forall_mem_map]
  intro r _
  exact congrArg (Option.map State.reset.regRead) (regName_param r)

/-- Settles O1; the table of bank 0 is R47's rows in order. -/
theorem powerOnResetValues : Obligations.PowerOnResetValues := by
  refine ⟨State.reset_regRead_resetRow, State.reset_regRead_ofs, State.reset_regRead_stat, rfl, rfl, rfl,
    fun c => ?channel, fun c k => ?mix, step_of_port_nil rfl⟩
  case channel =>
    rw [State.reset_chan, tapeBuf_c0]
    exact ChanState.reset_atReset params c 2 Mixes.bypassed 0
  case mix =>
    rw [State.reset_chan, ChanState.reset_mix]
    exact Mixes.bypassed_get k

/-- Settles O2: every restart leaves a state that meets the invariant. -/
theorem invariantAtReset : Obligations.InvariantAtReset := by
  rw [Obligations.InvariantAtReset, ← State.restart_reset]
  exact State.reset.restart_inv []

/-- Settles O12. -/
theorem idleAndPowerOnSteps : Obligations.IdleAndPowerOnSteps := by
  refine ⟨fun s hport => step_of_port_nil hport, fun s rest hport => ?powerOn⟩
  case powerOn =>
    exact ⟨s.restart rest, step_of_powerOn hport, ⟨rfl, rfl, rfl, rfl, rfl, rfl, rfl, rfl⟩, rfl, rfl, rfl, rfl⟩

/-! ### SETSR (R205, R742) -/

theorem rateAccepted_iff (r : F64) : rateAccepted r = true ↔ c0.lt r = true ∧ r ≠ .inf false := by
  simp [rateAccepted]

theorem rateChanged_eq_true_iff (s : State) (r : F64) :
    rateChanged s r = true ↔ s.configured = false ∨ r.feq (real s.sr) = false := by
  simp [rateChanged]

/-- An accepted rate that compares equal to the one in force is the same pattern: it is no zero and no NaN. -/
theorem eq_of_feq_of_accepted {d e : Word} (hd : rateAccepted (real d) = true) (h : (real d).feq (real e) = true) :
    d = e := by
  obtain ⟨x, f, hfin, hu⟩ := fin_of_rateAccepted hd
  refine real_inj ?_ (by rw [hfin]; exact F64.noConfusion)
  rw [hfin] at h ⊢
  exact F64.eq_of_fin_feq hu h

theorem exec_setsr_of_changed {s : State} {d : Word} (hd : rateAccepted (real d) = true)
    (hc : rateChanged s (real d) = true) :
    exec (.setsr d) s = .next ((({ s with sr := d, configured := true } : State).resetChannels params).ok 0) :=
  congrArg Host.Outcome.next (setsrWith_of_changed params s hd hc)

theorem exec_setsr_of_same {s : State} {d : Word} (hd : rateAccepted (real d) = true)
    (hc : rateChanged s (real d) = false) :
    exec (.setsr d) s = .next (({ s with sr := d, configured := true } : State).ok 0) :=
  congrArg Host.Outcome.next (setsrWith_of_same params s hd hc)

/-- Settles O28, by whether the rate changes. -/
theorem setsrRateChange : Obligations.SetsrRateChange := by
  intro s d hpos hfinite
  have hd : rateAccepted (real d) = true := (rateAccepted_iff _).mpr ⟨hpos, hfinite⟩
  constructor
  case left =>
    intro h
    have hc : rateChanged s (real d) = true := (rateChanged_eq_true_iff s _).mpr h
    have hreset (c : Chan) := ({ s with sr := d, configured := true } : State).resetChannels_chanReset c
    exact ⟨_, exec_setsr_of_changed hd hc, rfl, rfl, rfl, fun c => ⟨(hreset c).ok 0, rfl⟩, rfl⟩
  case right =>
    intro hconf hfeq
    have hc : rateChanged s (real d) = false := by simp [rateChanged, hconf, hfeq]
    have hkept : ({ s with sr := d, configured := true } : State) = s := by
      rw [eq_of_feq_of_accepted hd hfeq, ← hconf]
    exact ⟨_, exec_setsr_of_same hd hc, congrArg (State.ok · 0) hkept⟩

end Machine
end Sys2Proof
end

section
/-!
The latch hazard (R750): the proof of O39.  `State.SameProcessing` relates states that the channel engines cannot tell
apart; a WRREG relates the states before and after it, and every command but BLOCK keeps the relation.
-/

namespace Sys2Proof.Machine

open Config

/-- The two states agree on all that an SMP, a SETSR and a RESET depend on: the channels, `ACT`, the rate and
CONFIGURED (R45, R60). -/
structure State.SameProcessing (s t : State) : Prop where
  chL : t.chL = s.chL
  chR : t.chR = s.chR
  act : t.act = s.act
  sr : t.sr = s.sr
  configured : t.configured = s.configured

namespace State.SameProcessing

variable {s t u : State}

theorem symm (h : s.SameProcessing t) : t.SameProcessing s :=
  ⟨h.chL.symm, h.chR.symm, h.act.symm, h.sr.symm, h.configured.symm⟩

theorem trans (h : s.SameProcessing t) (k : t.SameProcessing u) : s.SameProcessing u :=
  ⟨k.chL.trans h.chL, k.chR.trans h.chR, k.act.trans h.act, k.sr.trans h.sr, k.configured.trans h.configured⟩

theorem chan (h : s.SameProcessing t) (c : Chan) : t.chan c = s.chan c := by
  cases c with
  | L => exact h.chL
  | R => exact h.chR

theorem env (h : s.SameProcessing t) (cfg : Params) (c : Chan) : t.env cfg c = s.env cfg c :=
  State.env_congr h.sr h.act cfg c

theorem rateChanged (h : s.SameProcessing t) (r : F64) : rateChanged t r = rateChanged s r := by
  rw [Machine.rateChanged, Machine.rateChanged, h.configured, h.sr]

theorem ok (h : s.SameProcessing t) (a b : Word) : (s.ok a).SameProcessing (t.ok b) :=
  ⟨h.chL, h.chR, h.act, h.sr, h.configured⟩

theorem raise (h : s.SameProcessing t) (e : CmdError) (cw : CmdWord) :
    (s.raise e cw).SameProcessing (t.raise e cw) :=
  ⟨h.chL, h.chR, h.act, h.sr, h.configured⟩

theorem setRate (h : s.SameProcessing t) (d : Word) :
    ({ s with sr := d, configured := true } : State).SameProcessing { t with sr := d, configured := true } :=
  ⟨h.chL, h.chR, h.act, rfl, rfl⟩

theorem resetChannels (h : s.SameProcessing t) (cfg : Params) :
    (s.resetChannels cfg).SameProcessing (t.resetChannels cfg) := by
  refine ⟨?_, ?_, h.act, h.sr, h.configured⟩
  · rw [State.resetChannels_chL, State.resetChannels_chL, h.chL, h.act, h.sr]
  · rw [State.resetChannels_chR, State.resetChannels_chR, h.chR, h.act, h.sr]

theorem setChan (h : s.SameProcessing t) (c : Chan) (x : ChanState) :
    (s.setChan c x).SameProcessing (t.setChan c x) := by
  cases c with
  | L => exact ⟨rfl, h.chR, h.act, h.sr, h.configured⟩
  | R => exact ⟨h.chL, rfl, h.act, h.sr, h.configured⟩

end State.SameProcessing

/-! ### WRREG and RDREG are not seen by the channels (R45, R54) -/

theorem CommandEffect.sameProcessing_of_wrreg {s t : State} {b : BitVec 2} {x : BitVec 6} {d : Word}
    (h : CommandEffect s (.wrreg b x d) t) : s.SameProcessing t := by
  cases h with
  | wroteOfs => constructor <;> simp
  | raised | wroteParam | wroteStatus => exact ⟨rfl, rfl, rfl, rfl, rfl⟩

theorem CommandEffect.sameProcessing_of_rdreg {s t : State} {b : BitVec 2} {x : BitVec 6}
    (h : CommandEffect s (.rdreg b x) t) : s.SameProcessing t := by
  cases h with
  | raised | read => exact ⟨rfl, rfl, rfl, rfl, rfl⟩

/-- What WRREG answers is settled by the address and the value alone (R202). -/
theorem execWrreg_resp_eq {b : BitVec 2} {x : BitVec 6} {d : Word} {s s' t t' : State}
    (h : execWrreg b x d s = .next t) (h' : execWrreg b x d s' = .next t') : t'.resp = t.resp := by
  cases hn : regName b x with
  | none =>
    rw [execWrreg_of_reserved d _ hn] at h h'
    cases h
    cases h'
    rfl
  | some n =>
    cases hw : s.regWrite n d with
    | error e =>
      rw [execWrreg_of_error hn hw] at h
      rw [execWrreg_of_error hn (State.regWrite_error_of_error hw s')] at h'
      cases h
      cases h'
      rfl
    | ok u =>
      cases hw' : s'.regWrite n d with
      | error e =>
        rw [State.regWrite_error_of_error hw' s] at hw
        cases hw
      | ok u' =>
        rw [execWrreg_of_ok hn hw] at h
        rw [execWrreg_of_ok hn hw'] at h'
        cases h
        cases h'
        rfl

/-! ### One command, and a run, from related states -/

/-- From `s` and from `t` the command leaves related states, with one response unless it is a read. -/
def AnswersAlike (i : Instr) (s t : State) : Prop :=
  ∃ s' t', exec i s = .next s' ∧ exec i t = .next t' ∧ s'.SameProcessing t' ∧
    ((∀ b x, i ≠ .rdreg b x) → t'.resp = s'.resp)

theorem setsrWith_sameProcessing {s t : State} (h : s.SameProcessing t) (cfg : Params) (d : Word) :
    (setsrWith cfg d s).SameProcessing (setsrWith cfg d t) ∧ (setsrWith cfg d t).resp = (setsrWith cfg d s).resp := by
  cases hd : rateAccepted (real d) with
  | false =>
    rw [setsrWith_of_rejected cfg s hd, setsrWith_of_rejected cfg t hd]
    exact ⟨h.raise _ _, rfl⟩
  | true =>
    have hrate := h.rateChanged (real d)
    cases hc : rateChanged s (real d) with
    | false =>
      rw [setsrWith_of_same cfg s hd hc, setsrWith_of_same cfg t hd (hrate.trans hc)]
      exact ⟨(h.setRate d).ok 0 0, rfl⟩
    | true =>
      rw [setsrWith_of_changed cfg s hd hc, setsrWith_of_changed cfg t hd (hrate.trans hc)]
      exact ⟨((h.setRate d).resetChannels cfg).ok 0 0, rfl⟩

theorem smpWith_sameProcessing {s t : State} (h : s.SameProcessing t) (cfg : Params) (ch : BitVec 8) (d : Word) :
    (smpWith cfg ch d s).SameProcessing (smpWith cfg ch d t) ∧
      (smpWith cfg ch d t).resp = (smpWith cfg ch d s).resp := by
  cases hch : Chan.ofCh ch with
  | none =>
    rw [smpWith_of_noChan cfg d s hch, smpWith_of_noChan cfg d t hch]
    exact ⟨h.raise _ _, rfl⟩
  | some c =>
    cases hs : s.configured with
    | false =>
      rw [smpWith_of_notCfg cfg d s hch hs, smpWith_of_notCfg cfg d t hch (h.configured.trans hs)]
      exact ⟨h.raise _ _, rfl⟩
    | true =>
      rw [smpWith_of_configured cfg d s hch hs, smpWith_of_configured cfg d t hch (h.configured.trans hs),
        sampleWith_eq, sampleWith_eq, h.chan, h.env]
      exact ⟨(h.setChan c _).ok _ _, rfl⟩

/-- Every command but BLOCK answers related states alike. -/
theorem State.SameProcessing.answersAlike {s t : State} (h : s.SameProcessing t) {i : Instr} (hi : i ≠ .block) :
    AnswersAlike i s t := by
  cases i with
  | nop => exact ⟨_, _, rfl, rfl, h.ok 0 0, fun _ => rfl⟩
  | wrreg b x d =>
    obtain ⟨s', hs, heffect⟩ := commandEffect_wrreg s b x d
    obtain ⟨t', ht, heffect'⟩ := commandEffect_wrreg t b x d
    exact ⟨s', t', hs, ht, (heffect.sameProcessing_of_wrreg.symm.trans h).trans heffect'.sameProcessing_of_wrreg,
      fun _ => execWrreg_resp_eq hs ht⟩
  | rdreg b x =>
    obtain ⟨s', hs, heffect⟩ := commandEffect_rdreg s b x
    obtain ⟨t', ht, heffect'⟩ := commandEffect_rdreg t b x
    exact ⟨s', t', hs, ht, (heffect.sameProcessing_of_rdreg.symm.trans h).trans heffect'.sameProcessing_of_rdreg,
      fun hread => absurd rfl (hread b x)⟩
  | setsr d =>
    obtain ⟨hsame, hresp⟩ := setsrWith_sameProcessing h params d
    exact ⟨_, _, rfl, rfl, hsame, fun _ => hresp⟩
  | reset => exact ⟨_, _, rfl, rfl, (h.resetChannels params).ok 0 0, fun _ => rfl⟩
  | block => exact absurd rfl hi
  | smp ch d =>
    obtain ⟨hsame, hresp⟩ := smpWith_sameProcessing h params ch d
    exact ⟨_, _, rfl, rfl, hsame, fun _ => hresp⟩

/-- Every command is answered (R147). -/
theorem exists_resp_of_exec {i : Instr} {s t : State} (h : exec i s = .next t) : ∃ r, t.resp = some r := by
  rcases (commandEffect_of_exec h).resp_eq with herr | ⟨w, hok, -⟩
  · exact ⟨_, herr⟩
  · exact ⟨_, hok⟩

/-- A run without a BLOCK answers related states alike, reads apart, and leaves related states. -/
theorem State.SameProcessing.runsAlike {s t : State} (h : s.SameProcessing t) {js : List Instr}
    (hjs : .block ∉ js) : ∃ rs rs' u v, runCommands js s = some (rs, u) ∧ runCommands js t = some (rs', v) ∧
      u.SameProcessing v ∧ ∀ n : Nat, (∀ b x, js[n]? ≠ some (Instr.rdreg b x)) → rs'[n]? = rs[n]? := by
  induction js generalizing s t with
  | nil => exact ⟨[], [], s, t, rfl, rfl, h, fun _ _ => rfl⟩
  | cons j js ih =>
    rw [List.mem_cons, not_or] at hjs
    obtain ⟨hj, hrest⟩ := hjs
    obtain ⟨s', t', hs, ht, hsame, hresp⟩ := h.answersAlike (Ne.symm hj)
    obtain ⟨r, hr⟩ := exists_resp_of_exec hs
    obtain ⟨r', hr'⟩ := exists_resp_of_exec ht
    obtain ⟨rs, rs', u, v, hu, hv, hsame', hresps⟩ := ih hsame hrest
    refine ⟨r :: rs, r' :: rs', u, v, runCommands_cons_of_next hs hr hu, runCommands_cons_of_next ht hr' hv, hsame',
      fun n hread => ?_⟩
    cases n with
    | zero =>
      have heq := hresp fun b x hjr => hread b x (congrArg some hjr)
      rw [hr, hr'] at heq
      exact heq
    | succ n => exact hresps n hread

/-! ### The read back (R55) -/

/-- A read of a register of banks 0 to 2 right after an accepted WRREG of it shows the new value. -/
theorem exec_rdreg_of_written {s t : State} {b : BitVec 2} {x : BitVec 6} {d : Word} (hb : b ≠ 3)
    (hexec : exec (.wrreg b x d) s = .next t) (hok : t.resp = some ⟨.ok, 0⟩) :
    exec (.rdreg b x) t = .next { t with resp := some ⟨.ok, d⟩ } := by
  cases hn : regName b x with
  | none =>
    rw [show exec (.wrreg b x d) s = _ from execWrreg_of_reserved d s hn] at hexec
    cases hexec
    cases hok
  | some n =>
    obtain ⟨rfl, rfl⟩ := regName_eq_some hn
    rw [exec_rdreg, (commandEffect_of_exec hexec).regRead_of_accepted hb hok]

/-- Settles O39: the WRREG relates the two states, and the run keeps them so. -/
theorem writesWaitForBlock : Obligations.WritesWaitForBlock := by
  intro s t b i d js hb hjs hexec
  have hsame : s.SameProcessing t := (commandEffect_of_exec hexec).sameProcessing_of_wrreg
  obtain ⟨rs, rs', u, v, hu, hv, huv, hresps⟩ := hsame.runsAlike hjs
  exact ⟨⟨rs, rs', u, v, hu, hv, ⟨huv.chL, huv.chR⟩, huv.act, huv.sr, huv.configured, hresps⟩,
    fun hok => exec_rdreg_of_written hb hexec hok⟩

end Sys2Proof.Machine
end

section
/-! Steps and runs without a stop (R200, R201, R210, R707): the proofs of O10, O11 and O18. -/

namespace Sys2Proof.Machine

/-! ### Taking a command off the port (R107, R200) -/

theorem step_of_decode_eq_cmd {s : State} {cw : CmdWord} {d : Word} {rest : List Event} {i : Instr}
    (hport : s.port = .command cw d :: rest) (hd : decode cw d = .cmd i) : step s = exec i (s.accept rest) := by
  simp only [step, hport, hd]

/-- The command word in bits [31:0] of 96 and the data word above it are presented as they are (R140). -/
theorem State.withFetchWord_port (s : State) (cw : CmdWord) (d : Word) :
    (s.withFetchWord 96 (cw.toNat + d.toNat * 2 ^ 32)).port = .command cw d :: s.port := by
  have hcw := cw.isLt
  have hd := d.isLt
  have hfits : (cw.toNat + d.toNat * 2 ^ 32) % 2 ^ 96 = cw.toNat + d.toNat * 2 ^ 32 := Nat.mod_eq_of_lt (by omega)
  have hlow : BitVec.ofNat 32 (cw.toNat + d.toNat * 2 ^ 32) = cw := by
    apply BitVec.eq_of_toNat_eq
    rw [BitVec.toNat_ofNat, Nat.add_mul_mod_self_right, Nat.mod_eq_of_lt hcw]
  have hhigh : BitVec.ofNat 64 ((cw.toNat + d.toNat * 2 ^ 32) / 2 ^ 32) = d := by
    rw [Nat.add_mul_div_right _ _ (Nat.two_pow_pos 32), Nat.div_eq_of_lt hcw, Nat.zero_add, BitVec.ofNat_toNat,
      BitVec.setWidth_eq]
  rw [State.withFetchWord, State.presentWord, State.withPort_port, hfits, hlow, hhigh]

/-- Settles O10. -/
theorem stepRunsDecoded : Obligations.StepRunsDecoded := by
  intro s cw d rest i hport hd
  obtain ⟨hwf, -, -⟩ := of_decode_eq_cmd hd
  exact ⟨step_of_decode_eq_cmd hport hd, ⟨rfl, rfl, rfl, rfl, rfl, rfl, rfl, rfl⟩, ⟨rfl, rfl⟩, rfl, rfl, rfl, rfl,
    rfl, hwf, fun s₀ => s₀.withFetchWord_port cw d⟩

/-! ### No stop (R210, R707) -/

theorem exists_next_of_exec (i : Instr) (s : State) : ∃ t, exec i s = .next t := by
  obtain ⟨t, hexec, -⟩ := exists_commandEffect i s
  exact ⟨t, hexec⟩

/-- Whatever event stands first on the port, the step has a next state. -/
theorem exists_next_of_step (s : State) : ∃ t, step s = .next t := by
  cases hport : s.port with
  | nil => exact ⟨s, step_of_port_nil hport⟩
  | cons event rest =>
    cases event with
    | powerOn => exact ⟨_, step_of_powerOn hport⟩
    | meterRead idx => exact ⟨_, step_meterRead hport⟩
    | command cw d =>
      cases hd : decode cw d with
      | badCmd => exact ⟨_, step_of_decode_eq_badCmd hport hd⟩
      | cmd i =>
        rw [step_of_decode_eq_cmd hport hd]
        exact exists_next_of_exec i _

/-- Settles O11. -/
theorem neverStops : Obligations.NeverStops := ⟨exists_next_of_step, exists_next_of_exec⟩

/-! ### NOP (R201) -/

theorem encodeWord_nop : encodeWord .nop = 0 := by decide

theorem decode_eq_nop_iff (cw : CmdWord) (d : Word) : decode cw d = .cmd .nop ↔ cw = 0 := by
  constructor
  · intro hd
    obtain ⟨-, hcw, -⟩ := of_decode_eq_cmd hd
    exact hcw.symm.trans encodeWord_nop
  · rintro rfl
    exact decode_encodeWord (i := .nop) rfl d

/-- Settles O18. -/
theorem nopResult : Obligations.NopResult := ⟨decode_eq_nop_iff, fun _ => rfl⟩

end Sys2Proof.Machine
end

section
/-! The register map, accepted writes and reads (R46-R53, R202-R204): the proofs of O19, O21, O22 and O25. -/

namespace Sys2Proof.Machine

/-! ### The register map (R204) -/

/-- A search of a bank's rows for an address finds a register exactly when the address is in the idx column. -/
theorem isSome_map_find?_idx {α β : Type} (idx : α → BitVec 6) (rows : List α) (name : α → β) (i : BitVec 6) :
    ((rows.find? fun r => idx r == i).map name).isSome = (rows.map idx).contains i := by
  rw [Option.isSome_map, List.isSome_find?, List.contains_map]
  exact congrArg rows.any (funext fun _ => BEq.comm)

theorem regName_param_isSome (i : BitVec 6) : (regName 0 i).isSome = (PReg.all.map PReg.idx).contains i :=
  isSome_map_find?_idx PReg.idx PReg.all RegName.param i

theorem regName_ofs_isSome (i : BitVec 6) : (regName 1 i).isSome = (OReg.all.map OReg.idx).contains i ∧
    (regName 2 i).isSome = (OReg.all.map OReg.idx).contains i :=
  ⟨isSome_map_find?_idx OReg.idx OReg.all (RegName.ofs .L) i, isSome_map_find?_idx OReg.idx OReg.all (RegName.ofs .R) i⟩

theorem regName_stat_isSome (i : BitVec 6) : (regName 3 i).isSome = (SReg.all.map SReg.idx).contains i :=
  isSome_map_find?_idx SReg.idx SReg.all RegName.stat i

/-- The rows of R47 of one kind. -/
def PReg.idxsOfKind (k : Kind) : List (BitVec 6) := (PReg.all.filter (·.kind == k)).map PReg.idx

/-- An enumeration's row of R47: its address and how many codes it has. -/
def PReg.enumRow (r : PReg) : Option (BitVec 6 × Nat) :=
  match r.kind with
  | .enum n => some (r.idx, n)
  | _ => none

theorem exists_param_of_mem_idxsOfKind (k : Kind) :
    ∀ i ∈ PReg.idxsOfKind k, ∃ r, regName 0 i = some (.param r) ∧ r.kind = k := by
  rw [PReg.idxsOfKind, List.forall_mem_map]
  intro r hr
  obtain ⟨-, hkind⟩ := List.mem_filter.mp hr
  exact ⟨r, regName_param r, beq_iff_eq.mp hkind⟩

theorem PReg.enumRow_eq_some {r : PReg} {p : BitVec 6 × Nat} (h : r.enumRow = some p) :
    r.idx = p.1 ∧ r.kind = .enum p.2 := by
  unfold PReg.enumRow at h
  split at h
  · next n hkind =>
    cases h
    exact ⟨rfl, hkind⟩
  · cases h

theorem exists_param_of_mem_enumRows :
    ∀ p ∈ PReg.all.filterMap PReg.enumRow, ∃ r, regName 0 p.1 = some (.param r) ∧ r.kind = .enum p.2 := by
  intro p hp
  obtain ⟨r, -, hrow⟩ := List.mem_filterMap.mp hp
  obtain ⟨hidx, hkind⟩ := PReg.enumRow_eq_some hrow
  exact ⟨r, hidx ▸ regName_param r, hkind⟩

/-- Every row of R51 is in both offset banks. -/
theorem exists_ofs_of_mem_idxs :
    ∀ i ∈ OReg.all.map OReg.idx, ∃ r, regName 1 i = some (.ofs .L r) ∧ regName 2 i = some (.ofs .R r) := by
  rw [List.forall_mem_map]
  exact fun r _ => ⟨r, regName_ofsL r, regName_ofsR r⟩

/-- Every row of R47 is a flag's, an enumeration's or a real parameter's. -/
theorem idxs_perm_by_kind :
    (PReg.idxsOfKind .flag ++ (PReg.all.filterMap PReg.enumRow).map (·.1) ++ PReg.idxsOfKind .param).Perm
      (PReg.all.map PReg.idx) := by
  decide

/-- Settles O19: its lists are the columns of R47, R51 and R53, whose rows stand in order in `PReg.all`, `OReg.all` and
`SReg.all`. -/
theorem registerMap : Obligations.RegisterMap := by
  refine ⟨fun i => ?params, regName_ofs_isSome, regName_stat_isSome, ?flags, ?enums, ?reals, ?offsets⟩
  case params => exact (regName_param_isSome i).trans idxs_perm_by_kind.contains_eq.symm
  case flags => exact exists_param_of_mem_idxsOfKind .flag
  case enums => exact exists_param_of_mem_enumRows
  case reals => exact exists_param_of_mem_idxsOfKind .param
  case offsets => exact exists_ofs_of_mem_idxs

/-! ### Accepted writes (R202) -/

theorem State.regWrite_param_of_accepts (s : State) {r : PReg} {d : Word} (hd : r.kind.accepts d = true) :
    s.regWrite (.param r) d = .ok (s.setParam r d) := by
  simp only [State.regWrite, hd, if_true]

theorem State.regWrite_ofs_of_accepts (s : State) (c : Chan) (r : OReg) {d : Word}
    (hd : Kind.offset.accepts d = true) : s.regWrite (.ofs c r) d = .ok (s.setOfs c r d) := by
  simp only [State.regWrite, hd, if_true]

/-- Settles O21. -/
theorem wrregParameter : Obligations.WrregParameter := by
  intro s r d hd
  exact ⟨execWrreg_of_ok (regName_param r) (s.regWrite_param_of_accepts hd), s.shadow.get_set_self r d,
    fun _ hr => s.shadow.get_set_of_ne hr d⟩

/-- Settles O22. -/
theorem wrregOffset : Obligations.WrregOffset := by
  intro s r d hd
  exact ⟨execWrreg_of_ok (regName_ofsL r) (s.regWrite_ofs_of_accepts .L r hd),
    execWrreg_of_ok (regName_ofsR r) (s.regWrite_ofs_of_accepts .R r hd),
    fun b => ⟨b.get_set_self r d, fun _ hr => b.get_set_of_ne hr d⟩⟩

/-! ### Reads (R203) -/

/-- STATUS as read is its six bits, zero-extended (R63). -/
theorem statusWord_eq_setWidth (errs : BitVec 5) (configured : Bool) :
    statusWord errs configured = (errs ++ BitVec.ofBool configured).setWidth 64 :=
  (BitVec.setWidth_eq_append (by decide)).symm

/-- A meter that shows the real `v` reads as a pattern of `v`, a NaN as any of its patterns (R66, R242). -/
theorem exists_exec_rdreg_of_real {s : State} {r : SReg} {free : Word} {v : F64}
    (h : s.regRead (.stat r) = bits64 free v) :
    ∃ w, exec (.rdreg 3 r.idx) s = .next { s with resp := some ⟨.ok, w⟩ } ∧ real w = v :=
  ⟨_, exec_rdreg (.stat r) s, by rw [h, real_bits64]⟩

/-- Settles O25, register by register. -/
theorem rdregResult : Obligations.RdregResult := by
  intro s
  refine ⟨fun r => exec_rdreg (.param r) s, fun r => ⟨exec_rdreg (.ofs .L r) s, exec_rdreg (.ofs .R r) s⟩,
    exec_rdreg (.stat .id) s, ?status, exec_rdreg (.stat .sr) s, exec_rdreg (.stat .errCmd) s, ?meters⟩
  case status =>
    rw [← statusWord_eq_setWidth]
    exact exec_rdreg (.stat .status) s
  case meters =>
    simp only [List.forall_mem_cons, List.not_mem_nil, false_implies, implies_true, and_true]
    exact ⟨exists_exec_rdreg_of_real (r := .inpk .L) rfl, exists_exec_rdreg_of_real (r := .inpk .R) rfl,
      exists_exec_rdreg_of_real (r := .outpk .L) rfl, exists_exec_rdreg_of_real (r := .outpk .R) rfl,
      exists_exec_rdreg_of_real (r := .ccgr .L) rfl, exists_exec_rdreg_of_real (r := .ccgr .R) rfl,
      exists_exec_rdreg_of_real (r := .ldgr .L) rfl, exists_exec_rdreg_of_real (r := .ldgr .R) rfl,
      exists_exec_rdreg_of_real (r := .scgr .L) rfl, exists_exec_rdreg_of_real (r := .scgr .R) rfl⟩

end Sys2Proof.Machine
end

section
/-! RESET, BLOCK and SMP (R206-R209): the proofs of O30, O31, O32 and O34. -/

namespace Sys2Proof.Machine

open Config

/-! ### RESET and BLOCK (R206, R207) -/

/-- Settles O30. -/
theorem resetResult : Obligations.ResetResult := by
  intro s
  exact ⟨resetWith params s, rfl, rfl, ⟨rfl, rfl, rfl, rfl, rfl, rfl, rfl, rfl⟩, ⟨rfl, rfl, rfl, rfl, rfl⟩,
    fun c => (s.resetChannels_chanReset c).ok 0⟩

/-- Settles O31: `State.latch` is this update. -/
theorem blockResult : Obligations.BlockResult := fun _ => rfl

/-! ### What the coefficients depend on (R45, R58, R208) -/

/-- A command keeps the rate and the active set, or it is BLOCK, or an accepted SETSR. -/
theorem CommandEffect.env_eq_or {i : Instr} {s t : State} (h : CommandEffect s i t) (cfg : Params) (c : Chan) :
    t.env cfg c = s.env cfg c ∨ i = .block ∨ ∃ d, i = .setsr d ∧ t.resp = some ⟨.ok, 0⟩ ∧ t.sr = d := by
  cases h with
  | latched => exact .inr (.inl rfl)
  | rateSet hd hc => exact .inr (.inr ⟨_, rfl, rfl, rfl⟩)
  | rateKept hd hc => exact .inr (.inr ⟨_, rfl, rfl, rfl⟩)
  | sampled => exact .inl (State.env_congr (by simp [sampleWith_eq]) (by simp [sampleWith_eq]) cfg c)
  | wroteOfs => exact .inl (State.env_congr (by simp) (by simp) cfg c)
  | raised | nop | read | wroteParam | wroteStatus | channelsReset => exact .inl rfl

/-- Settles O32. -/
theorem coefficientsChangeOnlyAtBlockAndSetsr : Obligations.CoefficientsChangeOnlyAtBlockAndSetsr := by
  intro i s t c hexec hchanged
  exact ((commandEffect_of_exec hexec).env_eq_or params c).resolve_left hchanged

/-! ### SMP of a configured block (R209) -/

theorem sampleWith_chan_self (cfg : Params) (c : Chan) (x : F64) (s : State) : (sampleWith cfg c x s).chan c =
    { (chain (s.env cfg c) (s.chan c) x).1 with epoch := (s.chan c).epoch + 1 } := by
  rw [sampleWith_eq, State.ok_chan, State.setChan_chan]

theorem sampleWith_chan_of_ne (cfg : Params) {c c' : Chan} (h : c' ≠ c) (x : F64) (s : State) :
    (sampleWith cfg c x s).chan c' = s.chan c' := by
  rw [sampleWith_eq, State.ok_chan, State.setChan_chan_of_ne s h]

theorem sampleWith_sameShared (cfg : Params) (c : Chan) (x : F64) (s : State) :
    s.SameShared (sampleWith cfg c x s) := by
  simp [State.SameShared, sampleWith_eq]

theorem sampleWith_samePorts (cfg : Params) (c : Chan) (x : F64) (s : State) :
    s.SamePorts (sampleWith cfg c x s) := by
  simp [State.SamePorts, sampleWith_eq]

/-- Settles O34. -/
theorem smpResult : Obligations.SmpResult := by
  intro s c d hconf
  exact ⟨_, _, exec_smpOf_of_configured hconf c d, rfl, real_bits64 _ _, sampleWith_chan_self params c _ s,
    fun _ hc => sampleWith_chan_of_ne params hc _ s, sampleWith_sameShared params c _ s,
    sampleWith_samePorts params c _ s⟩

end Sys2Proof.Machine
end

section
/-! The saturation kernels at the ends of their range (R300, R341-R343, R350, R366): the proofs of O45 to O48. -/

namespace Sys2Proof
namespace F64

/-! ### At or below zero -/

theorem le_iff {a b : F64} : a.le b = true ↔ ∃ i j, rank a = some i ∧ rank b = some j ∧ i ≤ j := by
  unfold le
  cases rank a <;> cases rank b <;> simp

theorem signed_eq_zero_iff {s : Bool} {u : Nat} : signed s u = 0 ↔ u = 0 := by
  cases s <;> simp [signed]

/-- Only the zeros stand where 0 stands. -/
theorem exists_eq_zero_of_rank {a : F64} (h : rank a = some 0) : ∃ s, a = zero s := by
  cases a with
  | nan => cases h
  | inf s =>
    rw [rank, Option.some.injEq, signed_eq_zero_iff] at h
    exact absurd h (pow_ne_zero _ two_ne_zero)
  | fin s e f =>
    rw [rank, Option.some.injEq, signed_eq_zero_iff] at h
    exact ⟨s, fin_eq_zero h s⟩

/-- The larger of a number at or below 0 and a zero is a zero. -/
theorem exists_max_zero_eq_zero {a : F64} {t : Bool} (h : a.le (zero t) = true) : ∃ s, max a (zero t) = zero s := by
  obtain ⟨i, j, hi, hj, hij⟩ := le_iff.mp h
  rw [rank_zero, Option.some.injEq] at hj
  subst hj
  unfold max
  split
  · exact ⟨t, rfl⟩
  · next hlt =>
    have hi0 : ¬ i < 0 := fun hneg => hlt (lt_zero_iff.mpr ⟨i, hi, hneg⟩)
    exact exists_eq_zero_of_rank (by rw [hi, show i = 0 by omega])

/-! ### Half of a finite real -/

theorem units_two : units 1024 0 = 2 * 2 ^ 1074 := by
  have hexp : ((1024 : Fin 2047) : Nat) = 1023 + 1 := rfl
  have hfrac : (0 : BitVec 52).toNat = 0 := rfl
  rw [units, hexp, if_neg (Nat.succ_ne_zero 1023), hfrac, Nat.add_zero, Nat.add_sub_cancel, ← pow_add, ← pow_succ']

/-- 2.0 is a power of two: nothing is rounded. -/
theorem ofNat_two : F64.ofNat 2 = .fin false 1024 0 := by
  rw [F64.ofNat, ← units_two, ← Nat.mul_one (units 1024 0), round_units false 1024 0 Nat.one_pos]

/-- Half of a finite real, before its one rounding: with `q` units to 1.0 it is a fraction of denominator `2 * q`. -/
theorem exists_fin_div_two : ∃ q, 0 < q ∧ ∀ (s : Bool) (e : Fin 2047) (f : BitVec 52),
    (F64.fin s e f).div (F64.ofNat 2) = round s (units e f * q) (2 * q) := by
  have hq : 0 < 2 ^ 1074 := by positivity
  refine ⟨2 ^ 1074, hq, fun s e f => ?_⟩
  have hpos : units 1024 0 ≠ 0 := by rw [units_two]; positivity
  rw [ofNat_two, div, if_neg hpos, units_two, Bool.xor_false]

/-- One exponent field lower, a magnitude that is not subnormal there is half as large. -/
theorem units_eq_two_mul_pred {e : Fin 2047} (he : 1 < e.val) (f : BitVec 52) :
    units e f = 2 * units ⟨e.val - 1, by omega⟩ f := by
  obtain ⟨k, hk⟩ : ∃ k, e.val = k + 2 := ⟨e.val - 2, by omega⟩
  have hpred : k + 2 - 1 = k + 1 := rfl
  simp only [units, hk, hpred, Nat.add_sub_cancel, Nat.succ_ne_zero, if_false]
  ring

/-- Half of a magnitude with an exponent field above 1 is exact: the field is one less. -/
theorem div_two_of_one_lt {e : Fin 2047} (he : 1 < e.val) (s : Bool) (f : BitVec 52) :
    (F64.fin s e f).div (F64.ofNat 2) = .fin s ⟨e.val - 1, by omega⟩ f := by
  obtain ⟨q, hq, hdiv⟩ := exists_fin_div_two
  rw [hdiv, units_eq_two_mul_pred he, Nat.mul_comm 2, Nat.mul_assoc, round_units _ _ _ (Nat.mul_pos two_pos hq)]

/-- A magnitude below 2^53 units keeps its low bits: rounding to whole units cannot overflow. -/
theorem round_isFinite_of_lt {p q : Nat} (h : p / q < 2 ^ 53) (s : Bool) : (round s p q).isFinite = true := by
  have hnearest : nearestEven p q ≤ 2 ^ 53 := by
    unfold nearestEven
    split <;> omega
  have hexcess : excess p q = 0 := if_pos h
  unfold round ofMag
  rw [hexcess, Nat.zero_mul, Nat.zero_add, pow_zero, Nat.mul_one, dif_pos (by omega)]
  rfl

/-- Half of a finite real is finite, a subnormal rounded included. -/
theorem div_two_isFinite {x : F64} (hx : x.isFinite = true) : (x.div (F64.ofNat 2)).isFinite = true := by
  obtain ⟨s, e, f, rfl⟩ := exists_fin_of_isFinite hx
  by_cases he : 1 < e.val
  · rw [div_two_of_one_lt he]
    rfl
  · obtain ⟨q, hq, hdiv⟩ := exists_fin_div_two
    have hunits : units e f < 2 ^ 53 := by
      have h := units_lt_two_pow e f
      rwa [show e.val - 1 = 0 by omega, Nat.add_zero] at h
    have hhalf : units e f * q / (2 * q) < 2 ^ 53 := by
      rw [Nat.mul_div_mul_right _ _ hq]
      omega
    rw [hdiv]
    exact round_isFinite_of_lt hhalf s

theorem abs_isFinite {x : F64} (hx : x.isFinite = true) : x.abs.isFinite = true := by
  obtain ⟨s, e, f, rfl⟩ := exists_fin_of_isFinite hx
  rfl

/-- Half of a finite magnitude, times 0.0, is a zero. -/
theorem abs_div_two_mul_zero {x : F64} (hx : x.isFinite = true) :
    ∃ s, (x.abs.div (F64.ofNat 2)).mul (zero false) = zero s := by
  obtain ⟨s, e, f, hfin⟩ := exists_fin_of_isFinite (div_two_isFinite (abs_isFinite hx))
  rw [hfin, mul_zero_fin]
  exact ⟨_, rfl⟩

end F64

/-- `pow(x, ±0)` is 1 for every `x` (R18). -/
theorem Libm.pow_zero (x : F64) (s : Bool) : Libm.pow x (F64.zero s) = F64.ofNat 1 := by
  have hunits : F64.units 0 0 = 0 := rfl
  cases x <;> simp only [Libm.pow, F64.zero, hunits, if_true]

namespace Machine

open Config

/-! ### The drive map at and below 0 dB (R341) -/

/-- `ch` of R341 by the clamped drive. -/
def driveChar (clamped : F64) : F64 :=
  (c2.mul ((F64.dec 5 1).add (((F64.dec 5 1).mul (F64.min clamped driveCharDb)).div driveCharDb))).sub c1

theorem driveMap_g (lib : Libm) (d : F64) : (driveMap lib d).g = db2lin lib d := rfl

theorem driveMap_ch (lib : Libm) (d : F64) : (driveMap lib d).ch = driveChar (F64.max d c0) := by
  simp only [driveMap, driveChar]

/-- At a zero of either sign the character amount is 1.0 - 1.0. -/
theorem driveChar_zero : ∀ s, driveChar (F64.zero s) = F64.zero false := by decide +kernel

/-- Settles O45: the clamped drive is a zero, and `g` and `att` are R341's formulas as defined. -/
theorem driveBelowZeroHasNoCharacter : Obligations.DriveBelowZeroHasNoCharacter := by
  intro lib d hd
  obtain ⟨s, hmax⟩ := F64.exists_max_zero_eq_zero hd
  exact ⟨by rw [driveMap_ch, c0, hmax, driveChar_zero], driveMap_g lib d, rfl⟩

/-! ### Unity gain (R343, R300) -/

theorem params_pow : params.libm.pow = Libm.pow := rfl

/-- 0 dB is a gain of 1.0 (R249). -/
theorem db2lin_c0 : db2lin params.libm c0 = F64.ofNat 1 := by
  have hexp : c0.div (F64.ofNat 20) = F64.zero false := by decide +kernel
  rw [db2lin, hexp, params_pow, Libm.pow_zero]

/-- Settles O46. -/
theorem unityGainIsIdentity : Obligations.UnityGainIsIdentity := by
  refine ⟨fun x => ?clean, fun e x hcfg hgain => ?volume⟩
  case clean => rw [clean, driveMap_g, db2lin_c0, F64.mul_one]
  case volume => rw [ovol, hgain, hcfg, db2lin_c0, F64.mul_one]

/-! ### Pure at character 0 (R350) -/

theorem c1_sub_zero (s : Bool) : c1.sub (F64.zero s) = c1 := by
  rw [c1, F64.ofNat_one]
  exact F64.add_zero_fin false (!s) F64.units_one_pos.ne'

/-- A finite sine times a zero added to the input leaves it alone. -/
theorem mul_c1_add_mul_zero {x y : F64} (hx : x ≠ F64.zero true) (hy : y.isFinite = true) (s : Bool) :
    (x.mul c1).add (y.mul (F64.zero s)) = x := by
  obtain ⟨t, e, f, rfl⟩ := F64.exists_fin_of_isFinite hy
  rw [c1, F64.mul_one, F64.mul_zero_fin, F64.add_comm, F64.zero_add_of_ne _ hx]

/-- Settles O47: at character 0 the amount applied is a zero. -/
theorem pureIsNeutralWithoutCharacter : Obligations.PureIsNeutralWithoutCharacter := by
  intro lib prev x _ hx hsin hsum
  obtain ⟨s, happly⟩ := F64.abs_div_two_mul_zero hsum
  have happly' : ((prev.add (lib.sin x)).abs.div c2).mul c0 = F64.zero s := happly
  simp only [pureDefault, happly', c1_sub_zero, mul_c1_add_mul_zero hx hsin]

/-! ### Hard Clip (R366) -/

theorem hardStep_of_above {cfg : Params} {g x : F64} (h : cfg.clipCeil.lt (x.mul g) = true) (st : Clipped) :
    hardStep cfg st g x = (.pos, cfg.clipCeil.div g) := by
  simp only [hardStep, h, if_true]

theorem hardStep_of_below {cfg : Params} {g x : F64} (habove : cfg.clipCeil.lt (x.mul g) = false)
    (h : (x.mul g).lt cfg.clipCeil.neg = true) (st : Clipped) :
    hardStep cfg st g x = (.neg, cfg.clipCeil.neg.div g) := by
  simp only [hardStep, habove, h, Bool.false_eq_true, if_false, if_true]

/-- What Hard Clip lets through before the division by `g`: the recovery sample after a clip, the sample itself
otherwise. -/
def hardRecovery (cfg : Params) (st : Clipped) (v : F64) : F64 :=
  match st with
  | .pos => (v.mul phi).add (cfg.clipCeil.mul (c1.sub phi))
  | .neg => (v.mul phi).sub (cfg.clipCeil.mul (c1.sub phi))
  | .no => v

theorem hardStep_of_within {cfg : Params} {g x : F64} (habove : cfg.clipCeil.lt (x.mul g) = false)
    (hbelow : (x.mul g).lt cfg.clipCeil.neg = false) (st : Clipped) :
    hardStep cfg st g x = (.no, (hardRecovery cfg st (x.mul g)).div g) := by
  simp only [hardStep, habove, hbelow, Bool.false_eq_true, if_false]
  cases st <;> rfl

/-- Settles O48. -/
theorem hardClip : Obligations.HardClip := by
  intro cfg st g x
  exact ⟨fun h => hardStep_of_above h st, fun ha h => hardStep_of_below ha h st,
    fun ha hb => hardStep_of_within ha hb .pos, fun ha hb => hardStep_of_within ha hb .neg,
    fun ha hb => hardStep_of_within ha hb .no⟩

end Machine
end Sys2Proof
end

section
/-! Low-Dynamic (R450, R457, R459): the proofs of O49 and O50. -/

namespace Sys2Proof
namespace F64

/-! ### A clamped number is within its bounds (R17) -/

theorem le_of_lt_eq_false {a b : F64} (ha : a.isNaN = false) (hb : b.isNaN = false) (h : a.lt b = false) :
    b.le a = true := by
  rcases lt_eq_false_iff.mp h with hnan | hnan | hle
  · rw [ha] at hnan
    cases hnan
  · rw [hb] at hnan
    cases hnan
  · exact hle

theorem le_trans {a b c : F64} (hab : a.le b = true) (hbc : b.le c = true) : a.le c = true := by
  obtain ⟨i, j, hi, hj, hij⟩ := le_iff.mp hab
  obtain ⟨j', k, hj', hk, hjk⟩ := le_iff.mp hbc
  rw [hj, Option.some.injEq] at hj'
  exact le_iff.mpr ⟨i, k, hi, hk, hij.trans (hj' ▸ hjk)⟩

theorem le_refl {a : F64} (ha : a.isNaN = false) : a.le a = true := by
  obtain ⟨i, hi⟩ := exists_rank ha
  exact le_iff.mpr ⟨i, i, hi, hi, Int.le_refl i⟩

theorem min_le_right {a b : F64} (ha : a.isNaN = false) (hb : b.isNaN = false) : (min a b).le b = true := by
  unfold min
  split
  · exact le_refl hb
  · next h => exact le_of_lt_eq_false hb ha (Bool.eq_false_of_not_eq_true h)

theorem le_max_right {a b : F64} (ha : a.isNaN = false) (hb : b.isNaN = false) : b.le (max a b) = true := by
  unfold max
  split
  · exact le_refl hb
  · next h => exact le_of_lt_eq_false ha hb (Bool.eq_false_of_not_eq_true h)

theorem le_min {a b c : F64} (ha : c.le a = true) (hb : c.le b = true) : c.le (min a b) = true := by
  unfold min
  split
  · exact hb
  · exact ha

theorem max_isNaN {a b : F64} (ha : a.isNaN = false) (hb : b.isNaN = false) : (max a b).isNaN = false := by
  unfold max
  split
  · exact hb
  · exact ha

/-- What stands in the order on either side is a number. -/
theorem isNaN_of_le {a b : F64} (h : a.le b = true) : a.isNaN = false ∧ b.isNaN = false := by
  constructor
  · cases a with
    | nan => cases h
    | inf s => rfl
    | fin s e f => rfl
  · cases b with
    | nan => rw [le_nan] at h; cases h
    | inf s => rfl
    | fin s e f => rfl

/-- Both bounds of a range hold for a number clamped to it. -/
theorem clamp_within {x lo hi : F64} (hx : x.isNaN = false) (hrange : lo.le hi = true) :
    (clamp x lo hi).le hi = true ∧ lo.le (clamp x lo hi) = true := by
  obtain ⟨hlo, hhi⟩ := isNaN_of_le hrange
  exact ⟨min_le_right (max_isNaN hx hlo) hhi, le_min (le_max_right hx hlo) hrange⟩

/-- A NaN is not clamped (R17). -/
theorem clamp_nan (lo hi : F64) : clamp .nan lo hi = .nan := by rw [clamp, nan_max, nan_min]

theorem isNaN_of_clamp {x lo hi : F64} (h : (clamp x lo hi).isNaN = false) : x.isNaN = false := by
  cases x with
  | nan =>
    rw [clamp_nan] at h
    cases h
  | inf s => rfl
  | fin s e f => rfl

end F64

namespace Machine

/-! ### The two ways of a Low-Dynamic step (R450) -/

/-- At ratio 0 only the detector and the warm-up counter run (R459). -/
theorem ldyn_of_ratio_zero {e : Env} (h : (e.p .ldRatio).feq c0 = true) (x : F64) (st : LowDynamic) :
    ldyn e x st = (⟨msStep e st.ms x, c0, warmTick st.warm⟩, x, c0) := by
  simp only [ldyn, h, if_true]

/-- At any other ratio the gain applied is the smoothed one, clamped while warming up (R457). -/
theorem ldyn_meter_of_ratio_ne_zero {e : Env} (h : (e.p .ldRatio).feq c0 = false) (x : F64) (st : LowDynamic) :
    (ldyn e x st).2.2 = warmClamp st.warm (ldyn e x st).1.gdb := by
  simp only [ldyn, h, Bool.false_eq_true, if_false]

/-- The warm-up counter counts one up to 100, and stays where it is from there on. -/
theorem warmTick_eq (n : Nat) : warmTick n = min (n + 1) (max n 100) := by
  unfold warmTick ldWarmupN
  split <;> omega

theorem warmTick_eq_of_le {n : Nat} (h : n ≤ 100) : warmTick n = min (n + 1) 100 := by
  rw [warmTick_eq, Nat.max_eq_right h]

theorem warmClamp_of_lt {n : Nat} (h : n < 100) (g : F64) :
    warmClamp n g = F64.clamp g ldWarmupDb.neg ldWarmupDb := if_pos h

/-- A gain of 0.0 dB is within 6 dB. -/
theorem c0_within : c0.le ldWarmupDb = true ∧ ldWarmupDb.neg.le c0 = true := by decide +kernel

/-- A number clamped for the warm-up is within 6 dB. -/
theorem warmClamp_within {n : Nat} (h : n < 100) {g : F64} (hg : (warmClamp n g).isNaN = false) :
    (warmClamp n g).le ldWarmupDb = true ∧ ldWarmupDb.neg.le (warmClamp n g) = true := by
  rw [warmClamp_of_lt h] at hg ⊢
  exact F64.clamp_within (F64.isNaN_of_clamp hg) (F64.le_trans c0_within.2 c0_within.1)

/-- Settles O49. -/
theorem lowDynamicExactBypass : Obligations.LowDynamicExactBypass := by
  intro e x st hratio
  rw [ldyn_of_ratio_zero hratio]
  exact ⟨rfl, rfl, rfl, rfl, warmTick_eq st.warm⟩

/-- Settles O50: the gain applied is 0.0 at ratio 0, and the clamped one at any other. -/
theorem warmUpCountsAndClamps : Obligations.WarmUpCountsAndClamps := by
  intro e x st hwarm
  refine ⟨by rw [ldyn_warm, warmTick_eq_of_le hwarm], fun hlt hnan => ?within⟩
  case within =>
    cases hratio : (e.p .ldRatio).feq c0 with
    | true =>
      rw [ldyn_of_ratio_zero hratio]
      exact c0_within
    | false =>
      rw [ldyn_meter_of_ratio_ne_zero hratio] at hnan ⊢
      exact warmClamp_within hlt hnan

end Machine
end Sys2Proof
end

section
/-! The delay line of a Tape step (R355-R360): the proof of O56. -/

namespace Sys2Proof.Machine

/-- The sample a Tape step writes is the flushed compressed one, at the write index (R355, R358). -/
theorem tapeStep_line (cfg : Config.Params) (sr : F64) (t : Tape) (ch x : F64) :
    (tapeStep cfg sr t ch x).1.line =
      t.line.write t.w (dnz cfg.denormMode (compandEnc cfg.libm x (cfg.tapeCompand.mul ch))) := rfl

/-- Settles O56. -/
theorem tapeStepWritesOneCell : Obligations.TapeStepWritesOneCell := by
  intro cfg sr t ch x hwf hw
  obtain ⟨-, hindex, hrng⟩ := tapeStep_frame cfg sr t ch x
  have hpos : 0 < t.line.len := Nat.zero_lt_of_lt hw
  dsimp only
  rw [tapeStep_line, hindex, TapeLine.write_len]
  exact ⟨TapeLine.read_write_self hwf _ _, fun _ hj => TapeLine.read_write_of_ne hwf hj _, rfl,
    TapeLine.write_wf hwf hw _, rfl, Nat.mod_lt _ hpos, hrng⟩

end Sys2Proof.Machine
end

section
/-! A bypassed chain (R291, R293) and the example of R209: the proof of O36. -/

namespace Sys2Proof.Machine

open Config

/-! ### A bypassed chain

With every stage fully bypassed a sample passes through unchanged, as long as the kernels, which run all the same, make
finite values: at mix 1.0 the wet signal is multiplied by 0.0. -/

/-- A stage at mix 1.0 that stays bypassed lets its input through. -/
theorem wrap_of_bypassed {e : Env} {k : Stage} {s : ChanState} {x : F64} (hk : bypassTarget e.act k = c1)
    (hmix : s.mix.get k = c1) (hfade : nextMix e.cfg e.sr c1 c1 = c1) (hx : x ≠ F64.zero true)
    (hwet : (kernel e k s (dnz e.cfg.denormMode x)).2.isFinite = true) :
    (wrap e k s x).2 = x ∧ (wrap e k s x).1.mix = s.mix.set k c1 := by
  constructor
  · simp only [wrap, hk, hmix, hfade]
    rw [crossfade_c1, mul_zero_add_of_finite hwet hx]
  · rw [wrap_mix, hk, hmix, hfade]

/-- Every kernel of a list of stages makes a finite value when each is given the sample itself. -/
def wetFinite (e : Env) (x : F64) : List Stage → ChanState → Bool
  | [], _ => true
  | k :: ks, s => (kernel e k s (dnz e.cfg.denormMode x)).2.isFinite && wetFinite e x ks (wrap e k s x).1

/-- A mix set to the value that every mix has leaves it so. -/
theorem Mixes.get_set_of_all {m : Mixes} {v : F64} (h : ∀ j, m.get j = v) (k j : Stage) : (m.set k v).get j = v := by
  by_cases hj : j = k
  · rw [hj, Mixes.get_set_self]
  · rw [Mixes.get_set_of_ne m hj, h]

theorem runStages_of_bypassed {e : Env} (hact : ∀ k, bypassTarget e.act k = c1)
    (hfade : nextMix e.cfg e.sr c1 c1 = c1) {x : F64} (hx : x ≠ F64.zero true) {ks : List Stage} {s : ChanState}
    (hmix : ∀ k, s.mix.get k = c1) (hwet : wetFinite e x ks s = true) : (runStages e ks s x).2 = x := by
  induction ks generalizing s with
  | nil => rfl
  | cons k ks ih =>
    rw [wetFinite, Bool.and_eq_true] at hwet
    obtain ⟨hkernel, hrest⟩ := hwet
    obtain ⟨hout, hmix'⟩ := wrap_of_bypassed (hact k) (hmix k) hfade hx hkernel
    rw [runStages_cons, hout]
    exact ih (fun j => by rw [hmix', Mixes.get_set_of_all hmix]) hrest

/-- A fully bypassed chain returns its input. -/
theorem chain_of_bypassed {e : Env} (hact : ∀ k, bypassTarget e.act k = c1) (hfade : nextMix e.cfg e.sr c1 c1 = c1)
    {x : F64} (hx : x ≠ F64.zero true) {s : ChanState} (hmix : ∀ k, s.mix.get k = c1)
    (hwet : wetFinite e x chainOrder (s.meterIn x) = true) : (chain e s x).2 = x :=
  runStages_of_bypassed hact hfade hx hmix hwet

/-! ### The example of R209 -/

/-- The block after power-on and SETSR 48000.0. -/
def afterSetsr48000 : State := setsrWith params 0x40E7700000000000 State.reset

/-- Every positive finite rate is accepted (R205). -/
theorem rateAccepted_fin {x : Fin 2047} {f : BitVec 52} (hu : F64.units x f ≠ 0) :
    rateAccepted (.fin false x f) = true :=
  (rateAccepted_iff _).mpr
    ⟨F64.lt_iff.mpr ⟨0, _, F64.rank_zero false, rfl, signed_pos_iff.mpr ⟨rfl, hu⟩⟩, F64.noConfusion⟩

theorem rateAccepted_48000 : rateAccepted (real 0x40E7700000000000) = true := by
  have hreal : real 0x40E7700000000000 = .fin false 1038 0x7700000000000 := by decide
  rw [hreal]
  exact rateAccepted_fin fun hu => absurd (F64.units_eq_zero.mp hu).1 (by decide)

/-- The sample 0.5. -/
def halfWord : Word := 0x3FE0000000000000

/-- R47's reset column has every bypass flag 1. -/
theorem bypassTarget_reset (k : Stage) : bypassTarget ActiveSet.reset k = c1 := by
  cases k <;> exact if_pos rfl

theorem afterSetsr48000_eq : afterSetsr48000 =
    (({ State.reset with sr := 0x40E7700000000000, configured := true } : State).resetChannels params).ok 0 :=
  setsrWith_of_changed params State.reset rateAccepted_48000 rfl

theorem afterSetsr48000_mix (k : Stage) : afterSetsr48000.chL.mix.get k = c1 := by
  rw [afterSetsr48000_eq, State.ok_chL, State.resetChannels_chL, ChanState.reset_mix, targetMixes_get]
  exact bypassTarget_reset k

theorem afterSetsr48000_target (k : Stage) : bypassTarget (afterSetsr48000.env params .L).act k = c1 := by
  rw [afterSetsr48000_eq]
  exact bypassTarget_reset k

theorem afterSetsr48000_fade :
    nextMix (afterSetsr48000.env params .L).cfg (afterSetsr48000.env params .L).sr c1 c1 = c1 := by
  decide +kernel

/-- Each of the nine kernels, from its reset state, makes a finite value of 0.5. -/
theorem afterSetsr48000_wetFinite :
    wetFinite (afterSetsr48000.env params .L) (real halfWord) chainOrder (afterSetsr48000.chL.meterIn (real halfWord)) =
      true := by
  decide +kernel

theorem chain_afterSetsr48000 :
    (chain (afterSetsr48000.env params .L) afterSetsr48000.chL (real halfWord)).2 = real halfWord :=
  chain_of_bypassed afterSetsr48000_target afterSetsr48000_fade (by decide) afterSetsr48000_mix
    afterSetsr48000_wetFinite

/-- Settles O36: after power-on every stage is bypassed, so the sample comes back with its own pattern. -/
theorem smpExample : Obligations.SmpExample := by
  have hconf : afterSetsr48000.configured = true := by rw [afterSetsr48000_eq]; rfl
  refine ⟨afterSetsr48000, _, rfl, exec_smpOf_of_configured hconf .L halfWord, ?_⟩
  rw [sampleWith_eq, State.ok_resp, State.chan, chain_afterSetsr48000, showReal, bits64_real _ _ (by decide)]
  rfl

end Sys2Proof.Machine
end
